-- ==== Sys2Proof/Word.lean ====
section
/-! DEFINITION. The bit-vector words that travel on the link: the bytes and multi-byte fields of R167. -/

namespace Sys2Proof

/-- One byte of a frame (R167). -/
abbrev Byte := BitVec 8

/-- A two-byte field of a frame (R167). -/
abbrev Half := BitVec 16

/-- A four-byte field of a frame, and a point value: signed 32-bit in two's complement (R1, R167). -/
abbrev Word := BitVec 32

end Sys2Proof
end

