-- ==== Sys2Proof/Syntax.lean ====
section
/-! DEFINITION. The commands of the block: one constructor for each row of spec/opcode_table.json, with the row's
operands. Host requests carry the tag byte of their frame (R167) and the parameter bytes of Table 10-7 as the host sends
them, in range or not. Pin events and timer expiries carry the number of the pin, burner, line or channel. -/

namespace Sys2Proof

/-- Scanner A or scanner B of a burner (R20). -/
inductive Scanner where
  | a | b
  deriving DecidableEq, Repr

/-- One entry of PUT SAMPLES (R3): point number, signed 32-bit value, BAD marker byte. -/
structure SampleEntry where
  point : Byte
  value : Word
  bad : Byte
  deriving DecidableEq, Repr

/-- The receive faults that discard a frame (R168). -/
inductive DiscardCause where
  | marker | length | gap | stopBit | crc
  deriving DecidableEq, Repr

/-- The commands of the 7240: host requests as served, and the events of its pins, timers, link and store. -/
inductive Instr where
  -- host requests (Table 10-7)
  | identify (tag : Byte)
  | status (tag : Byte)
  | clearFlags (tag : Byte)
  | setClock (tag : Byte) (clock : Word)
  | restart (tag : Byte)
  | putSamples (tag count : Byte) (entries : List SampleEntry)
  | readPoints (tag first count : Byte)
  | forcePoint (tag point : Byte) (value : Word)
  | unforcePoint (tag point : Byte)
  | forceInputs (tag : Byte) (mask data : Half)
  | setMode (tag mode : Byte)
  | burnerStart (tag burner : Byte)
  | burnerStop (tag burner : Byte)
  | resetLockout (tag burner : Byte)
  | setDemand (tag burner : Byte) (target : Word)
  | readBurners (tag : Byte)
  | lineOff (tag line : Byte)
  | lineAuto (tag line : Byte)
  | lineManual (tag line : Byte) (rate : Half)
  | resetLine (tag line : Byte)
  | readLines (tag : Byte)
  | coolerStart (tag : Byte)
  | coolerStop (tag : Byte)
  | setFans (tag : Byte) (refs : List Half)
  | readCooler (tag : Byte)
  | ackAlarms (tag : Byte) (base : Half) (e : Byte)
  | shelveAlarms (tag : Byte) (base : Half) (e : Byte) (minutes : Half)
  | unshelveAlarms (tag : Byte) (base : Half) (e : Byte)
  | readAlarms (tag : Byte) (base : Half) (e : Byte) (offset : Half)
  | readFirstOut (tag : Byte)
  | rearmFirstOut (tag group : Byte)
  | fetchNotices (tag n : Byte)
  | closeShift (tag : Byte)
  | holdReport (tag : Byte) (seq : Word)
  | releaseReport (tag : Byte) (seq : Word)
  | readReport (tag : Byte) (seq : Word) (part : Byte)
  | readOpenShift (tag : Byte)
  | readSetting (tag group : Byte) (inst : Half) (item : Byte)
  | writeSetting (tag group : Byte) (inst : Half) (item : Byte) (value : Word)
  | saveSettings (tag : Byte)
  | setLock (tag level : Byte)
  | unknownRequestCode (code tag : Byte)
  -- link events
  | validFrame (frame : List Byte)
  | frameDiscard (cause : DiscardCause)
  | linkIdleHunt
  | replySent
  | linkSilenceExpiry
  -- resets; the operands are the levels of the strap pins BAUD1 and BAUD0
  | powerOn (baud1 baud0 : Bool)
  | resetPin (baud1 baud0 : Bool)
  | restartReset
  -- point table and pins
  | supervisionExpiry
  | dinEdge (i : Fin 16) (high : Bool)
  | dinDebounceExpiry (i : Fin 16)
  | keyEdge (high : Bool)
  | keyDebounceExpiry
  | estopUnhealthy
  | estopPinHigh
  | estopHealthy
  -- burners
  | scannerEdge (n : Fin 3) (sc : Scanner)
  | flameWindowExpiry (n : Fin 3)
  | disagreementExpiry (n : Fin 3)
  | purgeExpiry (n : Fin 3)
  | pilotTrialExpiry (n : Fin 3)
  | mainTrialExpiry (n : Fin 3)
  | postPurgeExpiry (n : Fin 3)
  | graceExpiry (n : Fin 3)
  -- fuel lines
  | controlPeriodExpiry
  | syncEdge
  | feedbackWindowExpiry (m : Fin 6)
  -- pulse channels
  | cycleEnd (c : Fin 24)
  | freqHalfCycle (c : Fin 24)
  | dutyHighEnd (c : Fin 24)
  | countEdge (c : Fin 24)
  -- cooler, alarms, shift, clock, store
  | coolerPeriodExpiry
  | shelveMinuteExpiry
  | floodSecondExpiry
  | shiftTimerExpiry
  | plantClockSecond
  | storeComplete (verifyGood : Bool)
  deriving DecidableEq, Repr

end Sys2Proof
end

