-- ==== Sys2Proof/Machine/Frames.lean ====
section
/-! DEFINITION. Characters, byte order, the CRC and the frame formats of the link (R166 to R168, Table 10-3), and the
request codes of Table 10-7. -/

namespace Sys2Proof.Machine

/-! Characters (R166) -/

/-- The ten levels of a character, one bit time each: start bit, the 8 data bits least significant first, no parity, stop bit
(R166). R166 gives the idle level, high, and R168 a faulty stop bit, low; the model takes the start bit low and a data bit 1
high, as asynchronous links have them (assumption log 50). -/
def character (b : Byte) : List Bool :=
  [false, b.getLsbD 0, b.getLsbD 1, b.getLsbD 2, b.getLsbD 3, b.getLsbD 4, b.getLsbD 5, b.getLsbD 6, b.getLsbD 7, true]

/-- The byte of a character received, or none where its ten levels have no start bit or a stop bit that is low (R166, R168;
assumption log 50). -/
def readCharacter (levels : List Bool) : Option Byte :=
  match levels with
  | [false, d0, d1, d2, d3, d4, d5, d6, d7, true] =>
    some (BitVec.ofNat 8 ([d0, d1, d2, d3, d4, d5, d6, d7].foldr (fun d n => d.toNat + 2 * n) 0))
  | _ => none

/-! Bytes and frames (R167, R168) -/

/-- The `k` bytes of `n`, most significant byte first (R167). -/
def beBytes : Nat → Nat → List Byte
  | 0, _ => []
  | k + 1, n => beBytes k (n / 256) ++ [BitVec.ofNat 8 n]

/-- The number a list of bytes spells, most significant byte first (R167). -/
def fromBytes (bs : List Byte) : Nat := bs.foldl (fun n b => 256 * n + b.toNat) 0

/-- Shift one bit of the CRC register: generator x^16 + x^12 + x^5 + 1, that is 1021h (R168). -/
def crcBit (c : Half) : Half := if c.msb then (c <<< 1) ^^^ 0x1021#16 else c <<< 1

/-- Shift one byte into the CRC register, most significant bit first (R168). -/
def crcByte (c : Half) (b : Byte) : Half :=
  crcBit (crcBit (crcBit (crcBit (crcBit (crcBit (crcBit (crcBit (c ^^^ (b.zeroExtend 16 <<< 8)))))))))

/-- The CRC of R168 over a list of bytes: initial value FFFFh, no final inversion. -/
def crc (bs : List Byte) : Half := bs.foldl crcByte 0xFFFF#16

/-- A request frame of a body: marker A5h, one length byte, the body, the CRC over length and body (R167, R168). -/
def requestFrame (body : List Byte) : List Byte :=
  let checked := BitVec.ofNat 8 body.length :: body
  0xA5#8 :: checked ++ beBytes 2 (crc checked).toNat

/-- A reply frame of a body: marker 5Ah, two length bytes, the body, the CRC (R167). R168 says what the CRC covers for a
received frame alone; the model forms that of a reply over both length bytes and the body (assumption log 48). -/
def replyFrame (body : List Byte) : List Byte :=
  let checked := beBytes 2 body.length ++ body
  0x5A#8 :: checked ++ beBytes 2 (crc checked).toNat

/-- The body of a valid request frame, or none where the bytes are discarded by R168: a marker other than A5h, a length
byte below 2 or above 250, a byte count that does not fit the length byte, or a CRC that does not match. -/
def frameBody (frame : List Byte) : Option (List Byte) :=
  match frame with
  | marker :: len :: rest =>
    let body := rest.take len.toNat
    if marker = 0xA5#8 ∧ 2 ≤ len.toNat ∧ len.toNat ≤ 250 ∧ rest.length = len.toNat + 2 ∧
        rest.drop len.toNat = beBytes 2 (crc (len :: body)).toNat then
      some body
    else none
  | _ => none

/-- The body of a frame that arrives as characters on RXD, or none where it is discarded, for a stop bit or for its bytes
(R166, R168). VALID_FRAME brings the bytes of the characters; FRAME_DISCARD names a fault that its bytes do not show
(assumption log 28). -/
def receivedBody (characters : List (List Bool)) : Option (List Byte) := (characters.mapM readCharacter).bind frameBody

/-- The request codes that Table 10-7 lists. -/
def listedCodes : List Byte :=
  [0x01, 0x02, 0x03, 0x04, 0x05, 0x10, 0x11, 0x12, 0x13, 0x14, 0x18, 0x20, 0x21, 0x22, 0x23, 0x24, 0x28, 0x29, 0x2A,
   0x2B, 0x2C] ++
  [0x30, 0x31, 0x32, 0x33, 0x38, 0x39, 0x3A, 0x3B, 0x3C, 0x3D, 0x40, 0x48, 0x49, 0x4A, 0x4B, 0x4C, 0x50, 0x51, 0x52,
   0x53]

end Sys2Proof.Machine
end

