-- ==== Sys2Proof/Config.lean ====
section
/-! DEFINITION. What one 7240 fixes: its part number, its time base, and the values the manual leaves to the part. -/

namespace Sys2Proof.Config

/-- The part number IDENTIFY returns (Table 10-7). -/
def partNumber : Nat := 7240

/-- The logic revision IDENTIFY returns (Table 10-7). The manual names the field and states no value, so it is
a free value: nothing in Lean can evaluate it (assumption log 9). -/
opaque logicRevision : Byte

/-- Counts of the 4 MHz base clock (CLKIN divided by 4, section 4.3) in one millisecond. Every timer of the model
holds its remaining time in these counts (assumption log 1). -/
def countsPerMs : Nat := 4000

/-- Base clock counts of `t` milliseconds. -/
def ms (t : Nat) : Nat := countsPerMs * t

/-- Base clock counts of `t` seconds. -/
def sec (t : Nat) : Nat := ms (1000 * t)

end Sys2Proof.Config
end

