-- ==== Sys2Proof/Machine/Tables.lean ====
section
/-! DEFINITION. Tables of a fixed number of like records, and the bounded arithmetic of the manual's conventions
(00_scope.md, Arithmetic). -/

namespace Sys2Proof.Machine

/-- A table of `n` like records, item 0 to item n−1. -/
abbrev Tab (n : Nat) (α : Type) := Vector α n

namespace Tab
variable {n : Nat} {α β : Type}

/-- The table whose item i is `f i`. -/
def make (f : Fin n → α) : Tab n α := ⟨⟨(List.finRange n).map f⟩, by simp⟩

/-- The table of `n` equal items. -/
def fill (x : α) : Tab n α := Vector.replicate n x

/-- Item `i`. -/
def nth (t : Tab n α) (i : Fin n) : α := t[i.val]

/-- The table with item `i` replaced. -/
def put (t : Tab n α) (i : Fin n) (x : α) : Tab n α := t.set i.val x

/-- The table with item `i` changed by `f`. -/
def upd (t : Tab n α) (i : Fin n) (f : α → α) : Tab n α := t.put i (f (t.nth i))

/-- Every item changed by `f`. -/
def mapAll (f : α → β) (t : Tab n α) : Tab n β := ⟨⟨t.toList.map f⟩, by simp⟩

/-- The number of items that satisfy `p`. -/
def count (p : α → Bool) (t : Tab n α) : Nat := t.toList.countP p

/-- The item numbers whose items satisfy `p`, lowest first. -/
def select (p : α → Bool) (t : Tab n α) : List (Fin n) :=
  ((List.finRange n).zip t.toList).filterMap fun x => if p x.2 then some x.1 else none

end Tab

/-- The largest 32-bit count. -/
def max32 : Nat := 4294967295

/-- A counter's increment, saturating at its stated maximum (00_scope.md, Arithmetic). -/
def satInc (top n : Nat) : Nat := min top (n + 1)

/-- A counter's sum, saturating at its stated maximum. -/
def satAdd (top n k : Nat) : Nat := min top (n + k)

/-- clamp(x, a, b) is a where x < a, b where x > b, and x otherwise (00_scope.md, Arithmetic). -/
def clamp (x a b : Nat) : Nat := if x < a then a else if b < x then b else x

/-- clamp on integers. -/
def clampInt (x a b : Int) : Int := if x < a then a else if b < x then b else x

/-- A running timer after one count of the base clock: its time left falls by 1 and stays at 0 (assumption log 1). -/
def tickTimer (t : Option Nat) : Option Nat := t.map (· - 1)

/-- Burner numbers in ascending order. -/
def burnerList : List (Fin 3) := [0, 1, 2]

/-- Line numbers in ascending order. -/
def lineList : List (Fin 6) := [0, 1, 2, 3, 4, 5]

/-- Grate numbers in ascending order. -/
def grateList : List (Fin 3) := [0, 1, 2]

/-- Fan numbers in ascending order. -/
def fanList : List (Fin 6) := [0, 1, 2, 3, 4, 5]

/-- The four limits HH, H, L, LL of a point, in that order. -/
def limitList : List (Fin 4) := [0, 1, 2, 3]

end Sys2Proof.Machine
end

