-- ==== Sys2Proof/Machine/Types.lean ====
section
/-! DEFINITION. The named states and values of the manual's tables. Each list stands in the order of its table, which is
the order of its codes on the link (R167). -/

namespace Sys2Proof.Machine

/-- Condition of a point's underlying sample (Table 1-1). -/
inductive Quality where
  | unset | good | stale | bad
  deriving DecidableEq, Repr

/-- Class of a point (Table 1-2). -/
inductive PointClass where
  | process | interlock
  deriving DecidableEq, Repr

/-- Sequencer state of a burner (Table 2-1). -/
inductive BurnerState where
  | lockedOut | idle | purge | pilotTrial | mainTrial | firing | stopping
  deriving DecidableEq, Repr

/-- Cause of the last entry into LOCKED-OUT (Table 2-1). -/
inductive LockoutCause where
  | powerUp | settings | estop | flameFail | pilotFail | mainFail | falseFlame | airLost | interlockStale
  deriving DecidableEq, Repr

/-- Scanner verdict of a flame window (Table 2-3). -/
inductive Verdict where
  | dark | flame | fault
  deriving DecidableEq, Repr

/-- The air permissive: TRUE, or FALSE with its reason (R24). -/
inductive AirState where
  | permitted | staleOnly | lost
  deriving DecidableEq, Repr

/-- Requested state of a line (Table 3-1). -/
inductive LineRequest where
  | off | auto | manual
  deriving DecidableEq, Repr

/-- Actual state of a line (Table 3-1). -/
inductive LineState where
  | off | waiting | starting | auto | manual | tripped
  deriving DecidableEq, Repr

/-- How the last integrated period was metered (Table 3-1). -/
inductive Metering where
  | weigh | volumetric
  deriving DecidableEq, Repr

/-- Kind of a line's fuel (Table 3-2). -/
inductive FuelKind where
  | pulverised | petcoke | altSolid | liquid | gas
  deriving DecidableEq, Repr

/-- Result of a frequency conversion (Table 4-1). -/
inductive Marker where
  | none | lowLimit | highLimit
  deriving DecidableEq, Repr

/-- Mode of a pulse channel (Table 4-1). -/
inductive ChannelMode where
  | off | freq | duty | count
  deriving DecidableEq, Repr

/-- What a channel does with its pin PCHc: drives it at a level, reads it as an input, or leaves it undriven (R76). -/
inductive PinUse where
  | driven (high : Bool)
  | input
  | undriven
  deriving DecidableEq, Repr

/-- Owner roles of the pulse channels (Table 4-3). -/
inductive Role where
  | lineDrive (m : Fin 6)
  | lineFeedback (m : Fin 6)
  | grateDrive (n : Fin 3)
  | grateFeedback (n : Fin 3)
  | fan (n : Fin 6)
  deriving DecidableEq, Repr

/-- Cooler state (Table 5-1). -/
inductive CoolerState where
  | standby | running | pileUp | tripped
  deriving DecidableEq, Repr

/-- Grate state (Table 5-2). -/
inductive GrateState where
  | stopped | running | stalled
  deriving DecidableEq, Repr

/-- Kiln mode (R112). -/
inductive KilnMode where
  | off | heatUp | production | upset | shutdown
  deriving DecidableEq, Repr

/-- Alarm state (Table 7-1). -/
inductive AlarmState where
  | normal | unackActive | ackActive | unackCleared
  deriving DecidableEq, Repr

/-- Notice class (Table 8-1). -/
inductive NoticeClass where
  | urgent | routine
  deriving DecidableEq, Repr

/-- Close cause of a shift, and the close-pending field (R159, R165). -/
inductive CloseCause where
  | none | timer | request
  deriving DecidableEq, Repr

/-- Store operations in the order of their notice subjects (Table 11-2). -/
inductive StoreKind where
  | save | lock | report
  deriving DecidableEq, Repr

/-- Reset causes (R181). -/
inductive ResetCause where
  | powerOn | resetPin | restart
  deriving DecidableEq, Repr

/-- Link state (Table 10-1). -/
inductive LinkState where
  | waiting | normal | silent
  deriving DecidableEq, Repr

/-- Fallback mode (Table 3-4). -/
inductive FallbackMode where
  | hold | ramp
  deriving DecidableEq, Repr

/-- Status codes of replies (R170). -/
inductive Status where
  | ok | accepted | busy | state | range | locked | protected_ | limit | notFound | unknown | length
  deriving DecidableEq, Repr

/-! Codes on the link: the position of the value in its list, counting from 0 (R167). -/

def Quality.code : Quality → Nat
  | .unset => 0 | .good => 1 | .stale => 2 | .bad => 3

def BurnerState.code : BurnerState → Nat
  | .lockedOut => 0 | .idle => 1 | .purge => 2 | .pilotTrial => 3 | .mainTrial => 4 | .firing => 5 | .stopping => 6

def LockoutCause.code : LockoutCause → Nat
  | .powerUp => 0 | .settings => 1 | .estop => 2 | .flameFail => 3 | .pilotFail => 4 | .mainFail => 5
  | .falseFlame => 6 | .airLost => 7 | .interlockStale => 8

def Verdict.code : Verdict → Nat
  | .dark => 0 | .flame => 1 | .fault => 2

/-- 0 TRUE, 1 FALSE STALE-ONLY, 2 FALSE LOST (Table 10-6). -/
def AirState.code : AirState → Nat
  | .permitted => 0 | .staleOnly => 1 | .lost => 2

def LineRequest.code : LineRequest → Nat
  | .off => 0 | .auto => 1 | .manual => 2

def LineState.code : LineState → Nat
  | .off => 0 | .waiting => 1 | .starting => 2 | .auto => 3 | .manual => 4 | .tripped => 5

def Metering.code : Metering → Nat
  | .weigh => 0 | .volumetric => 1

def FuelKind.code : FuelKind → Nat
  | .pulverised => 0 | .petcoke => 1 | .altSolid => 2 | .liquid => 3 | .gas => 4

def Marker.code : Marker → Nat
  | .none => 0 | .lowLimit => 1 | .highLimit => 2

def ChannelMode.code : ChannelMode → Nat
  | .off => 0 | .freq => 1 | .duty => 2 | .count => 3

/-- Line drive m is m, line feedback m is 6 + m, grate drive n is 12 + n, grate feedback n is 15 + n, fan n is
18 + n (R175). -/
def Role.code : Role → Nat
  | .lineDrive m => m.val | .lineFeedback m => 6 + m.val | .grateDrive n => 12 + n.val
  | .grateFeedback n => 15 + n.val | .fan n => 18 + n.val

def CoolerState.code : CoolerState → Nat
  | .standby => 0 | .running => 1 | .pileUp => 2 | .tripped => 3

def GrateState.code : GrateState → Nat
  | .stopped => 0 | .running => 1 | .stalled => 2

def KilnMode.code : KilnMode → Nat
  | .off => 0 | .heatUp => 1 | .production => 2 | .upset => 3 | .shutdown => 4

def AlarmState.code : AlarmState → Nat
  | .normal => 0 | .unackActive => 1 | .ackActive => 2 | .unackCleared => 3

def NoticeClass.code : NoticeClass → Nat
  | .urgent => 0 | .routine => 1

/-- 0 NONE, 1 TIMER, 2 REQUEST (R165). -/
def CloseCause.code : CloseCause → Nat
  | .none => 0 | .timer => 1 | .request => 2

/-- STORE notice subjects (Table 11-2). -/
def StoreKind.code : StoreKind → Nat
  | .save => 0 | .lock => 1 | .report => 2

/-- 0 POWER-ON, 1 RESET-PIN, 2 RESTART (R181). -/
def ResetCause.code : ResetCause → Nat
  | .powerOn => 0 | .resetPin => 1 | .restart => 2

def LinkState.code : LinkState → Nat
  | .waiting => 0 | .normal => 1 | .silent => 2

def FallbackMode.code : FallbackMode → Nat
  | .hold => 0 | .ramp => 1

/-- Status codes (R170). -/
def Status.code : Status → Nat
  | .ok => 0 | .accepted => 1 | .busy => 2 | .state => 3 | .range => 4 | .locked => 5 | .protected_ => 6
  | .limit => 7 | .notFound => 8 | .unknown => 9 | .length => 10

/-- 0 for no and 1 for yes (R167); the code of every two-valued field listed NO, YES or OFF, ON. -/
def yesNo (b : Bool) : Nat := if b then 1 else 0

/-- The code of a field that its chapter lists "YES or NO" or "ON or OFF": the position in that list, so 0 for YES and ON
and 1 for NO and OFF (R167; Table 5-1 pressure fresh, outlet boost and cutback request; R142 armed). -/
def yesFirst (b : Bool) : Nat := if b then 0 else 1

/-! The values that codes name, or none. -/

def KilnMode.ofCode : Nat → Option KilnMode
  | 0 => some .off | 1 => some .heatUp | 2 => some .production | 3 => some .upset | 4 => some .shutdown
  | _ => none

def FuelKind.ofCode : Nat → Option FuelKind
  | 0 => some .pulverised | 1 => some .petcoke | 2 => some .altSolid | 3 => some .liquid | 4 => some .gas
  | _ => none

def ChannelMode.ofCode : Nat → Option ChannelMode
  | 0 => some .off | 1 => some .freq | 2 => some .duty | 3 => some .count
  | _ => none

def Role.ofCode (v : Nat) : Option Role :=
  if h : v < 6 then some (.lineDrive ⟨v, h⟩)
  else if h : v - 6 < 6 then some (.lineFeedback ⟨v - 6, h⟩)
  else if h : v - 12 < 3 then some (.grateDrive ⟨v - 12, h⟩)
  else if h : v - 15 < 3 then some (.grateFeedback ⟨v - 15, h⟩)
  else if h : v - 18 < 6 then some (.fan ⟨v - 18, h⟩)
  else none

/-- The channel mode a role requires (Table 4-3). -/
def Role.mode : Role → ChannelMode
  | .lineDrive _ => .freq | .lineFeedback _ => .count | .grateDrive _ => .freq | .grateFeedback _ => .count
  | .fan _ => .duty

/-- A line that runs: STARTING, AUTO or MANUAL (Table 4-3, R50). -/
def LineState.runs : LineState → Bool
  | .starting | .auto | .manual => true
  | .off | .waiting | .tripped => false

/-- The actual state a running line passes to by its requested state (R51, R52). -/
def LineRequest.state : LineRequest → LineState
  | .off => .off | .auto => .auto | .manual => .manual

/-- The alarm's condition is active (Table 7-2). -/
def AlarmState.active : AlarmState → Bool
  | .unackActive | .ackActive => true
  | .normal | .unackCleared => false

/-- The alarm is unacknowledged (Table 7-2). -/
def AlarmState.unacked : AlarmState → Bool
  | .unackActive | .unackCleared => true
  | .normal | .ackActive => false

/-- The burner is at rest: IDLE or LOCKED-OUT (R12, R117). -/
def BurnerState.atRest : BurnerState → Bool
  | .idle | .lockedOut => true
  | .purge | .pilotTrial | .mainTrial | .firing | .stopping => false

end Sys2Proof.Machine
end

