-- ==== Sys2Proof/Machine/Settings.lean ====
section
/-! DEFINITION. The working settings, group by group, with the factory defaults of the owning chapters' tables. -/

namespace Sys2Proof.Machine

/-- The items of a burner that are marked "latched" (Table 2-2). -/
structure TimingSet where
  flameWindow : Nat      -- ms
  ffrt : Nat             -- ms
  k : Nat
  cmin : Nat
  cmax : Nat
  purgeTime : Nat        -- s
  pilotTrialTime : Nat   -- s
  mainTrialTime : Nat    -- s
  postPurgeTime : Nat    -- s
  staleGrace : Nat       -- s
  disagreeTime : Nat     -- s
  deriving DecidableEq, Repr

/-- Burner settings, group G0 (Table 2-2). -/
structure BurnerCfg where
  timing : TimingSet
  airPoint : Option (Fin 96)
  airMin : Word
  fanInput : Option (Fin 16)
  ignitionLine : Option (Fin 6)
  deriving DecidableEq, Repr

/-- Line settings, group G1 (Table 3-2). -/
structure LineCfg where
  configured : Bool
  burner : Fin 3
  kind : FuelKind
  cv : Nat
  rmin : Nat
  rmax : Nat
  ramp : Nat
  share : Nat
  rank : Nat
  lightOff : Nat
  kf : Nat
  ratio : Nat
  tolerance : Nat
  window : Nat           -- s
  faultLimit : Nat
  weighPoint : Option (Fin 96)
  deriving DecidableEq, Repr

/-- Burner demand settings of each burner, group G1 (Table 3-4). -/
structure DemandCfg where
  maxHeat : Nat
  substCap : Nat
  inletPoint : Option (Fin 96)
  inletMin : Word
  fallbackDemand : Nat
  fallbackRamp : Nat
  shortfallLimit : Nat
  deriving DecidableEq, Repr

/-- The items of Table 3-4 that burner 0 alone has. -/
structure TrimCfg where
  airPoint : Option (Fin 96)
  tref : Nat
  ktrim : Nat
  trimMax : Nat
  heatUpCap : Nat
  deriving DecidableEq, Repr

/-- Common fuel settings, group G1 (Table 3-4). -/
structure FuelCfg where
  controlPeriod : Nat    -- ms
  cutback : Nat
  deriving DecidableEq, Repr

/-- Common cooler settings, group G2 (Table 5-3). -/
structure CoolerCfg where
  period : Nat           -- s
  pressurePoint : Option (Fin 96)
  pref : Nat
  ppile : Nat
  pileHysteresis : Nat
  kg : Nat
  stepMax : Nat
  pilePeriods : Nat
  stallPeriods : Nat
  kd : Nat
  fanMin : Nat
  outletPoint : Option (Fin 96)
  boostTemp : Word
  boostRef : Nat
  deriving DecidableEq, Repr

/-- Grate settings, group G2 (Table 5-3). The ratio of grate 0 is no item and is not used (R91). -/
structure GrateCfg where
  smin : Nat
  smax : Nat
  ratio : Nat
  deriving DecidableEq, Repr

/-- One limit of a point: present or absent, and its value (Table 1-2, R175). -/
structure LimitCfg where
  present : Bool
  value : Word
  deriving DecidableEq, Repr

/-- Point settings, group G3 (Table 1-2). Limits in the order HH, H, L, LL. -/
structure PointCfg where
  reload : Nat
  cls : PointClass
  limits : Tab 4 LimitCfg
  deadband : Nat
  deriving DecidableEq, Repr

/-- Alarm settings, group G4 (R121, R125). The suppression set has one bit for each mode, OFF in bit 0 (R175). -/
structure AlarmCfg where
  priority : Fin 4
  group : Option (Fin 8)
  suppress : BitVec 5
  deriving DecidableEq, Repr

/-- Channel settings, group G5 (Table 4-2). Prescaler `none` is AUTO. -/
structure ChannelCfg where
  mode : ChannelMode
  owner : Option Role
  prescaler : Option (Fin 12)
  dutyPeriod : Nat
  deriving DecidableEq, Repr

/-- General settings, group G6 (Table 11-1). -/
structure GeneralCfg where
  silenceTime : Nat      -- s, 0 for off
  fallback : FallbackMode
  shiftLength : Nat      -- h
  supervision : Nat      -- ms
  debounce : Nat         -- ms
  syncEnable : Bool
  deriving DecidableEq, Repr

/-- The settings of the part, as the working copy and the stored image hold them (R175). -/
structure Settings where
  burners : Tab 3 BurnerCfg
  lines : Tab 6 LineCfg
  demand : Tab 3 DemandCfg
  trim : TrimCfg
  fuel : FuelCfg
  cooler : CoolerCfg
  grates : Tab 3 GrateCfg
  points : Tab 96 PointCfg
  alarms : Tab 512 AlarmCfg
  floodThreshold : Nat
  channels : Tab 24 ChannelCfg
  general : GeneralCfg
  deriving DecidableEq, Repr

/-! Factory defaults -/

/-- Defaults of Table 2-2. -/
def BurnerCfg.default : BurnerCfg :=
  { timing := { flameWindow := 100, ffrt := 2000, k := 3, cmin := 3, cmax := 400, purgeTime := 120,
                pilotTrialTime := 10, mainTrialTime := 15, postPurgeTime := 60, staleGrace := 5, disagreeTime := 10 }
    airPoint := none, airMin := 0, fanInput := none, ignitionLine := none }

/-- Defaults of Table 3-2. -/
def LineCfg.default : LineCfg :=
  { configured := false, burner := 0, kind := .pulverised, cv := 25000, rmin := 100, rmax := 10000, ramp := 100,
    share := 0, rank := 0, lightOff := 100, kf := 1000, ratio := 1000, tolerance := 200, window := 2,
    faultLimit := 3, weighPoint := none }

/-- Defaults of the burner rows of Table 3-4. -/
def DemandCfg.default : DemandCfg :=
  { maxHeat := 200000, substCap := 250, inletPoint := none, inletMin := 800, fallbackDemand := 0,
    fallbackRamp := 2000, shortfallLimit := 5000 }

/-- Defaults of the burner 0 rows of Table 3-4. -/
def TrimCfg.default : TrimCfg :=
  { airPoint := none, tref := 1000, ktrim := 0, trimMax := 0, heatUpCap := 60000 }

/-- Defaults of the common rows of Table 3-4. -/
def FuelCfg.default : FuelCfg := { controlPeriod := 250, cutback := 700 }

/-- Defaults of the common rows of Table 5-3. -/
def CoolerCfg.default : CoolerCfg :=
  { period := 2, pressurePoint := none, pref := 4500, ppile := 6500, pileHysteresis := 500, kg := 10, stepMax := 10,
    pilePeriods := 3, stallPeriods := 3, kd := 50, fanMin := 200, outletPoint := none, boostTemp := 150,
    boostRef := 800 }

/-- Defaults of the grate rows of Table 5-3. -/
def GrateCfg.default : GrateCfg := { smin := 40, smax := 250, ratio := 1000 }

/-- Defaults of Table 1-2. -/
def PointCfg.default : PointCfg :=
  { reload := 10, cls := .process, limits := Tab.fill { present := false, value := 0 }, deadband := 0 }

/-- Default priority of an alarm (Table 7-3, R125). -/
def defaultPriority (a : Nat) : Fin 4 :=
  if a < 48 then
    let k := a % 16
    if k ≤ 4 ∨ k = 6 then 3 else if k = 5 then 2 else if k ≤ 11 then 1 else 0
  else if a < 72 then (if a % 4 = 0 then 2 else 1)
  else if a < 80 then 0
  else if a ≤ 83 then 2
  else if a = 84 then 3
  else if a ≤ 86 then 1
  else if a < 96 then 0
  else if a = 98 then 3
  else if a ≤ 100 then 2
  else if a ≤ 103 then 1
  else if a < 128 then 0
  else if a % 4 = 0 ∨ a % 4 = 3 then 2 else 1

/-- Default first-out group of an alarm (Table 7-3, R125). -/
def defaultGroup (a : Nat) : Option (Fin 8) :=
  if a < 48 then (if a % 16 ≤ 12 then some (if a < 16 then 0 else if a < 32 then 1 else 2) else none)
  else if 80 ≤ a ∧ a ≤ 86 then some 3
  else none

/-- Default suppression set of an alarm: OFF and SHUTDOWN for point limit alarms, empty for the others (R121). -/
def defaultSuppress (a : Nat) : BitVec 5 := if a < 128 then 0 else 0b10001#5

/-- Defaults of an alarm (R121, R125, Table 7-3). -/
def AlarmCfg.default (a : Fin 512) : AlarmCfg :=
  { priority := defaultPriority a.val, group := defaultGroup a.val, suppress := defaultSuppress a.val }

/-- Defaults of Table 4-2. -/
def ChannelCfg.default : ChannelCfg := { mode := .off, owner := none, prescaler := none, dutyPeriod := 40000 }

/-- Defaults of group G6 (R5, R10, R157, R174, Table 3-4). -/
def GeneralCfg.default : GeneralCfg :=
  { silenceTime := 5, fallback := .hold, shiftLength := 8, supervision := 500, debounce := 20, syncEnable := false }

/-- The factory defaults: every item takes the default its chapter gives (R181). -/
def Settings.factory : Settings :=
  { burners := Tab.fill .default, lines := Tab.fill .default, demand := Tab.fill .default, trim := .default,
    fuel := .default, cooler := .default, grates := Tab.fill .default, points := Tab.fill .default,
    alarms := Tab.make AlarmCfg.default, floodThreshold := 20, channels := Tab.fill .default, general := .default }

/-- The channel that carries a role, or none (Table 4-3). -/
def Settings.channelOf (cfg : Settings) (r : Role) : Option (Fin 24) :=
  (cfg.channels.select fun c => c.owner == some r).head?

end Sys2Proof.Machine
end

