-- ==== Sys2Proof/Machine/Records.lean ====
section
/-! DEFINITION. The records that the blocks hold (Table 0-1). Timers hold the base clock counts left (assumption log 1). -/

namespace Sys2Proof.Machine

/-! Point Table -/

/-- Point record (Table 1-1). The value field is the view `PointRec.value`. -/
structure PointRec where
  underlying : Word
  quality : Quality
  age : Nat
  force : Option Word
  cond : Tab 4 Bool      -- HH, H, L, LL; true is ACTIVE
  deriving DecidableEq, Repr

/-- Input record (R10), with its pin's level. -/
structure InputRec where
  pin : Bool
  level : Bool
  candidate : Bool
  timer : Option Nat
  forceMask : Bool
  forceData : Bool
  deriving DecidableEq, Repr

/-- E-STOP (R11): the ESTOP# pin, the state, and the count toward HEALTHY. -/
structure EstopRec where
  pinHigh : Bool
  healthy : Bool
  timer : Option Nat
  deriving DecidableEq, Repr

/-- KEY (R11): the pin, the debounced state, and its debounce. -/
structure KeyRec where
  pin : Bool
  on : Bool
  candidate : Bool
  timer : Option Nat
  deriving DecidableEq, Repr

/-- The Point Table (R1, R10, R11) with its supervision timer (R5). -/
structure PointTable where
  points : Tab 96 PointRec
  inputs : Tab 16 InputRec
  estop : EstopRec
  key : KeyRec
  supervision : Nat
  deriving DecidableEq, Repr

/-! Burner Sequencers -/

/-- Scanner record (R20). -/
structure ScannerRec where
  counter : Nat
  last : Nat
  verdict : Verdict
  deriving DecidableEq, Repr

/-- Burner record (Table 2-1), with the levels of its two output pins (R25). `unjudged` marks the flame window in
progress at the last entry into IDLE, which is not judged for false flame (R29, R30). -/
structure BurnerRec where
  state : BurnerState
  stepRunning : Bool
  stepLeft : Nat
  latched : TimingSet
  darkLimit : Nat
  cause : LockoutCause
  lockoutTime : Nat
  proven : Nat
  dark : Nat
  disagree : Option Nat
  grace : Option Nat
  air : AirState
  scanA : ScannerRec
  scanB : ScannerRec
  flameTimer : Nat
  unjudged : Bool
  pilot : Bool
  mainp : Bool
  deriving DecidableEq, Repr

/-! Fuel Line Controller -/

/-- Line record (Table 3-1). -/
structure LineRec where
  requested : LineRequest
  actual : LineState
  manualRate : Nat
  rate : Nat
  target : Nat
  assigned : Nat
  faults : Nat
  window : Option Nat
  lastF : Nat
  lastExpected : Nat
  metering : Metering
  massRem : Nat
  heatRem : Nat
  driveLimit : Marker
  deriving DecidableEq, Repr

/-- Burner demand record (Table 3-3). -/
structure DemandRec where
  target : Nat
  trim : Int
  effective : Nat
  split : Nat
  shortfall : Nat
  overfire : Nat
  shortCount : Nat
  deriving DecidableEq, Repr

/-- The CV and the Kf of a line that are in force: those of its settings at the last period processing, or at reset before
the first one (R44). -/
structure LineFactors where
  cv : Nat
  kf : Nat
  deriving DecidableEq, Repr

/-- The Fuel Line Controller: line and demand records, each line's factors in force (R44), the line started at the
MAIN-TRIAL entry of each burner (R52), and the control period timer with the length it was started with and the carried
fraction of a ms (R57). -/
structure FuelCtl where
  lines : Tab 6 LineRec
  demands : Tab 3 DemandRec
  factors : Tab 6 LineFactors
  ignition : Tab 3 (Option (Fin 6))
  periodLeft : Nat
  periodLength : Nat
  fraction : Nat
  deriving DecidableEq, Repr

/-! Pulse Channel Array -/

/-- A setting (k, P, H) of an output channel (R74). -/
structure PulseSetting where
  k : Nat
  p : Nat
  h : Nat
  deriving DecidableEq, Repr

/-- Channel record (Table 4-1) without the settings fields, which stand in group G5. `prescale` counts base clock
counts toward the next channel clock count (section 4.3, assumption log 10). -/
structure ChannelRec where
  active : Option PulseSetting
  staged : Option PulseSetting
  running : Bool
  high : Bool
  position : Nat
  prescale : Nat
  emitted : Nat
  edges : Nat
  marker : Marker
  deriving DecidableEq, Repr

/-! Cooler Controller -/

/-- Grate record (Table 5-2). -/
structure GrateRec where
  state : GrateState
  speed : Nat
  windowSpeed : Nat
  windowValid : Bool
  stalls : Nat
  strokes : Nat
  expected : Nat
  cycles : Nat
  driveLimit : Marker
  deriving DecidableEq, Repr

/-- Fan record (R90). -/
structure FanRec where
  hostRef : Nat
  applied : Nat
  deriving DecidableEq, Repr

/-- The Cooler Controller: cooler record (Table 5-1), grates, fans, and the cooler period timer with the length in
seconds of the period now running (R93, R98). -/
structure CoolerCtl where
  state : CoolerState
  s0 : Nat
  pileCount : Nat
  pressure : Word
  pressureFresh : Bool
  boost : Bool
  cutback : Bool
  grates : Tab 3 GrateRec
  fans : Tab 6 FanRec
  periodLeft : Nat
  periodLength : Nat     -- s
  deriving DecidableEq, Repr

/-! Kiln Mode Controller -/

/-- The mode record (R112). -/
structure KilnCtl where
  mode : KilnMode
  pendingShutdown : Tab 3 Bool
  deriving DecidableEq, Repr

/-! Alarm Table -/

/-- Alarm record (Table 7-1) without the settings fields, which stand in group G4. -/
structure AlarmRec where
  state : AlarmState
  shelved : Bool
  shelveMinutes : Nat
  held : Bool
  raises : Nat
  time : Nat
  deriving DecidableEq, Repr

/-- First-out record (R142). -/
structure FirstOutRec where
  armed : Bool
  first : Option (Fin 512)
  firstTime : Nat
  subsequent : Nat
  deriving DecidableEq, Repr

/-- The Alarm Table (R124, R130, R138, R140, R142), with the kiln mode it was last given, by which its suppression holds
stand (R115 step 5, R132). The current flood bucket stands first in `buckets`. -/
structure AlarmTable where
  recs : Tab 512 AlarmRec
  mode : KilnMode
  groups : Tab 8 FirstOutRec
  buckets : List Nat
  flood : Bool
  unackCount : Nat
  activeCount : Nat
  minuteTimer : Nat
  secondTimer : Nat
  deriving DecidableEq, Repr

/-! Notice Queues -/

/-- Kind, subject and state code of a notice (Table 8-2). -/
inductive NoticeBody where
  | alarm (a : Fin 512) (st : AlarmState)
  | burner (n : Fin 3) (st : BurnerState)
  | line (m : Fin 6) (st : LineState)
  | cooler (st : CoolerState)
  | mode (md : KilnMode)
  | shift (seq : Nat) (cause : CloseCause)
  | store (op : StoreKind) (good : Bool)
  | start (cause : ResetCause)
  deriving DecidableEq, Repr

/-- Notice cell (Table 8-1). -/
structure NoticeCell where
  body : NoticeBody
  cls : NoticeClass
  firstTime : Nat
  lastTime : Nat
  transitions : Nat
  deriving DecidableEq, Repr

/-- The Notice Queues (R146, R148, R150, R152). A cell on the free list holds no contents. -/
structure NoticeQueues where
  cells : Tab 256 (Option NoticeCell)
  free : List (Fin 256)
  urgent : List (Fin 256)
  routine : List (Fin 256)
  link : Tab 512 (Option (Fin 256))
  lost : Nat
  attention : Bool
  deriving DecidableEq, Repr

/-! Shift Accumulator -/

/-- Totals of a line in the shift record (Table 9-1). -/
structure LineTotals where
  kg : Nat
  weighSeconds : Nat
  volumetricSeconds : Nat
  trips : Nat
  deriving DecidableEq, Repr

/-- Totals of a burner in the shift record (Table 9-1). -/
structure BurnerTotals where
  heatMJ : Nat
  firingSeconds : Nat
  lockouts : Nat
  deriving DecidableEq, Repr

/-- Shift record (Table 9-1): the open record, and a closed report. -/
structure ShiftRecord where
  seq : Nat
  startTime : Nat
  endTime : Nat
  cause : CloseCause
  startedAfterReset : Bool
  clockSetDuring : Bool
  deferredClose : Bool
  elapsed : Nat
  modeSeconds : Tab 5 Nat    -- OFF, HEAT-UP, PRODUCTION, UPSET, SHUTDOWN
  lines : Tab 6 LineTotals
  burners : Tab 3 BurnerTotals
  totalMJ : Nat
  altMJ : Nat
  strokes : Tab 3 Nat
  pileUpSeconds : Nat
  coolerTrips : Nat
  raises : Tab 4 Nat
  floodSeconds : Nat
  noticesLost : Nat
  substitution : Nat
  deriving DecidableEq, Repr

/-- The carries of a line (R154): grams and milliseconds short of a whole unit. -/
structure LineCarry where
  grams : Nat
  weighMs : Nat
  volumetricMs : Nat
  deriving DecidableEq, Repr

/-- The carries kept beside the open record (R154). -/
structure Carries where
  lines : Tab 6 LineCarry
  burnerKJ : Tab 3 Nat
  totalKJ : Nat
  altKJ : Nat
  deriving DecidableEq, Repr

/-- A slot of the report ring (R160): EMPTY when it holds no report. -/
structure Slot where
  report : Option ShiftRecord
  hold : Nat
  deriving DecidableEq, Repr

/-- The Shift Accumulator (R154, R159, R160). -/
structure ShiftAcc where
  openRec : ShiftRecord
  carries : Carries
  ring : Tab 8 Slot
  timer : Nat
  closePending : CloseCause
  deriving DecidableEq, Repr

/-! Link Port and Settings Store -/

/-- The sticky flags (Table 10-1). -/
structure StickyFlags where
  crcError : Bool
  overrun : Bool
  noticeLost : Bool
  protectViolation : Bool
  storeFault : Bool
  clockUnset : Bool
  deriving DecidableEq, Repr

/-- A reply being sent: the body of its frame (R167). -/
structure Reply where
  code : Byte
  tag : Byte
  status : Status
  data : List Byte
  deriving DecidableEq, Repr

/-- The Link Port (Table 10-1, R168, R173). `hunting` is false from a discard until the line has been idle. -/
structure LinkPort where
  rate : Fin 4
  state : LinkState
  hunting : Bool
  hold : Option (List Byte)
  reply : Option Reply
  silence : Option Nat
  errors : Nat
  restartPending : Bool
  deriving DecidableEq, Repr

/-- What the non-volatile storage holds (R178, R180, R181); none is an image, record or copy whose check is invalid. -/
structure Nonvolatile where
  image : Option Settings
  lockRecord : Option (Fin 4)
  copies : Tab 2 (Option ShiftRecord)
  deriving DecidableEq, Repr

/-- The store operation in flight with what it captured (R178, R180). -/
inductive StoreOp where
  | save (captured : Settings)
  | lock (level : Fin 4)
  | report (r : ShiftRecord) (copy : Fin 2)
  deriving DecidableEq, Repr

/-- A settings-class operation waiting in its slot (R178). -/
inductive SettingsOp where
  | save | lock
  deriving DecidableEq, Repr

/-- The store's slots (R178). -/
structure StoreCtl where
  inFlight : Option StoreOp
  pendingSettings : Option SettingsOp
  pendingReport : Option ShiftRecord
  deriving DecidableEq, Repr

/-- The levels that the strap pins have now (R166). They are an input of the part: no row of the table changes them, so the
sender sets them between steps, as it puts commands in the queue; each reset reads them, and `LinkPort.rate` holds what
was read (assumption log 6). -/
structure Straps where
  baud1 : Bool
  baud0 : Bool
  deriving DecidableEq, Repr

/-- The reporting side, on which every block posts: Alarm Table, Notice Queues, Shift Accumulator and sticky flags. -/
structure Reporting where
  alarms : AlarmTable
  notices : NoticeQueues
  shift : ShiftAcc
  sticky : StickyFlags
  deriving DecidableEq, Repr

end Sys2Proof.Machine
end

