-- ==== Sys2Proof/Machine/Notices.lean ====
section
/-! DEFINITION. The Notice Queues: filing, coalescing, stealing and fetching notice cells (R146 to R152). -/

namespace Sys2Proof.Machine

/-- ATTENTION follows the two lists (R152). -/
def settleAttention (q : NoticeQueues) : NoticeQueues :=
  { q with attention := !(q.urgent.isEmpty && q.routine.isEmpty) }

/-- The alarm whose notice a cell holds, if it is an ALARM cell (R148). -/
def cellAlarm (cell : Option NoticeCell) : Option (Fin 512) :=
  match cell with
  | some { body := .alarm a _, .. } => some a
  | _ => none

/-- The alarm of a notice, if it is an ALARM notice. -/
def noticeAlarm (b : NoticeBody) : Option (Fin 512) :=
  match b with
  | .alarm a _ => some a
  | .burner .. | .line .. | .cooler .. | .mode .. | .shift .. | .store .. | .start .. => none

/-- The notice link of an alarm cell that leaves URGENT or ROUTINE becomes none (R148). -/
def dropLink (cell : Option NoticeCell) (link : Tab 512 (Option (Fin 256))) : Tab 512 (Option (Fin 256)) :=
  match cellAlarm cell with
  | some a => link.put a none
  | none => link

/-- The notice link of the alarm whose notice is filed names its cell (R147 step 4). -/
def setLink (b : NoticeBody) (c : Fin 256) (link : Tab 512 (Option (Fin 256))) : Tab 512 (Option (Fin 256)) :=
  match noticeAlarm b with
  | some a => link.put a (some c)
  | none => link

/-- The contents of a new cell (R147 step 2). -/
def newCell (clock : Nat) (b : NoticeBody) (cls : NoticeClass) : NoticeCell :=
  { body := b, cls := cls, firstTime := clock, lastTime := clock, transitions := 1 }

/-- Fill cell `c`, which is on no list, and append it to the list its class names (R147 steps 2 to 4). -/
def fillCell (clock : Nat) (b : NoticeBody) (cls : NoticeClass) (c : Fin 256) (q : NoticeQueues) : NoticeQueues :=
  settleAttention
    { q with
      cells := q.cells.put c (some (newCell clock b cls))
      urgent := match cls with | .urgent => q.urgent ++ [c] | .routine => q.urgent
      routine := match cls with | .urgent => q.routine | .routine => q.routine ++ [c]
      link := setLink b c q.link }

/-- File a notice in a new cell: the head of the free list (R147); with none free, an URGENT notice takes the cell of
the oldest ROUTINE notice, and any other notice is dropped (R149). The second component is true when a notice was lost. -/
def fileNew (clock : Nat) (b : NoticeBody) (cls : NoticeClass) (q : NoticeQueues) : NoticeQueues × Bool :=
  match q.free, cls, q.routine with
  | c :: free, _, _ => (fillCell clock b cls c { q with free := free }, false)
  | [], .urgent, c :: routine =>
    (fillCell clock b .urgent c { q with routine := routine, link := dropLink (q.cells.nth c) q.link }, true)
  | [], .urgent, [] => (q, true)
  | [], .routine, _ => (q, true)

/-- Coalesce an alarm's state into its queued cell: state, last time and transitions change, the rest stays (R148). -/
def coalesce (clock : Nat) (a : Fin 512) (st : AlarmState) (c : Fin 256) (q : NoticeQueues) : NoticeQueues :=
  { q with cells := q.cells.upd c fun cell =>
      cell.map fun x => { x with body := .alarm a st, lastTime := clock, transitions := satInc 255 x.transitions } }

/-- Free one fetched cell: appended at the tail of the free list, its link none, its contents gone (R151). -/
def freeCell (q : NoticeQueues) (c : Fin 256) : NoticeQueues :=
  { q with free := q.free ++ [c], cells := q.cells.put c none, link := dropLink (q.cells.nth c) q.link }

/-- The cells that a fetch of up to `n` takes, in order: from the head of URGENT, then of ROUTINE (R151). -/
def fetched (n : Nat) (q : NoticeQueues) : List (Fin 256) :=
  q.urgent.take n ++ q.routine.take (n - q.urgent.length)

/-- The queues after a fetch of up to `n` cells (R151). -/
def fetchCells (n : Nat) (q : NoticeQueues) : NoticeQueues :=
  let freed := (fetched n q).foldl freeCell q
  settleAttention { freed with urgent := q.urgent.drop n, routine := q.routine.drop (n - q.urgent.length) }

/-! Notice cells as returned (Table 8-2, Table 10-5) -/

/-- Position of the kind in Table 8-1's list. -/
def NoticeBody.kind : NoticeBody → Nat
  | .alarm .. => 0 | .burner .. => 1 | .line .. => 2 | .cooler .. => 3 | .mode .. => 4 | .shift .. => 5
  | .store .. => 6 | .start .. => 7

/-- Subject (Table 8-2, Table 11-2). -/
def NoticeBody.subject : NoticeBody → Nat
  | .alarm a _ => a.val | .burner n _ => n.val | .line m _ => m.val | .cooler _ => 0 | .mode _ => 0
  | .shift seq _ => seq | .store op _ => op.code | .start _ => 0

/-- State code, coded in the list of the kind's state set (Table 8-2); a store result is OK or FAULT (R179). -/
def NoticeBody.stateCode : NoticeBody → Nat
  | .alarm _ st => st.code | .burner _ st => st.code | .line _ st => st.code | .cooler st => st.code
  | .mode md => md.code | .shift _ cause => cause.code | .store _ good => yesNo (!good) | .start cause => cause.code

/-- The 16 bytes of a notice cell as returned (Table 10-5). -/
def cellBytes (x : NoticeCell) : List Byte :=
  beBytes 1 x.body.kind ++ beBytes 4 x.body.subject ++ beBytes 1 x.body.stateCode ++ beBytes 4 x.firstTime ++
    beBytes 4 x.lastTime ++ beBytes 1 (if (noticeAlarm x.body).isSome then x.transitions else 0) ++
    beBytes 1 x.cls.code

end Sys2Proof.Machine
end

