-- ==== Sys2Proof/Machine/Alarms.lean ====
section
/-! DEFINITION. The Alarm Table on the reporting side: raise, clear, acknowledge, hold back, release, flood and first-out
(R126 to R144), and the posting of notices with the account of lost ones (R147 to R150). -/

namespace Sys2Proof.Machine

/-- What the Alarm Table reads of the other blocks: the alarm settings (R125) and the plant clock. -/
structure RepEnv where
  cfg : Tab 512 AlarmCfg
  threshold : Nat
  clock : Nat
  deriving DecidableEq, Repr

/-- The open shift record with one of its fields fed (R154). -/
def feedShift (f : ShiftRecord → ShiftRecord) (r : Reporting) : Reporting :=
  { r with shift := { r.shift with openRec := f r.shift.openRec } }

/-- Alarm `a` is held back: shelved, its suppression set holds the mode last given to the Alarm Table, or flood with
priority 0 (R132). At a mode change the Alarm Table is given the mode at step 5 of R115, where these holds begin and end. -/
def heldBack (e : RepEnv) (a : Fin 512) (t : AlarmTable) : Bool :=
  (t.recs.nth a).shelved || (e.cfg.nth a).suppress.getLsbD t.mode.code ||
    (t.flood && (e.cfg.nth a).priority == 0)

/-- Bring the unacknowledged and the active count up to date (R130). -/
def recount (t : AlarmTable) : AlarmTable :=
  { t with unackCount := t.recs.count (·.state.unacked), activeCount := t.recs.count (·.state.active) }

/-- A change of state of alarm `a`: state, last transition time, counts (R126 steps 1 and 2, R127, R128). -/
def setAlarm (clock : Nat) (a : Fin 512) (st : AlarmState) (t : AlarmTable) : AlarmTable :=
  recount { t with recs := t.recs.upd a fun x => { x with state := st, time := clock } }

/-- Set or clear the held notice flag of alarm `a` (R132, R133). -/
def setHeld (a : Fin 512) (b : Bool) (t : AlarmTable) : AlarmTable :=
  { t with recs := t.recs.upd a fun x => { x with held := b } }

/-- One raise in the current flood bucket (R140). -/
def fillBucket (buckets : List Nat) : List Nat :=
  match buckets with
  | [] => []
  | b :: older => satInc 65535 b :: older

/-- Drop the oldest bucket and begin a new current one (R140). -/
def ageBuckets (buckets : List Nat) : List Nat := 0 :: buckets.take 9

/-- The flood sum (R140). -/
def floodSum (t : AlarmTable) : Nat := t.buckets.sum

/-- First-out capture of a raise of alarm `a` in its group (R142). -/
def capture (clock : Nat) (a : Fin 512) (x : FirstOutRec) : FirstOutRec :=
  if x.armed then { armed := false, first := some a, firstTime := clock, subsequent := 0 }
  else { x with subsequent := satInc 65535 x.subsequent }

/-- The first-out records after a raise of alarm `a` (R142). -/
def captureGroup (e : RepEnv) (a : Fin 512) (groups : Tab 8 FirstOutRec) : Tab 8 FirstOutRec :=
  match (e.cfg.nth a).group with
  | some g => groups.upd g (capture e.clock a)
  | none => groups

/-- The Alarm Table's own part of a taken raise (R126 steps 1 to 5). -/
def raiseRecord (e : RepEnv) (a : Fin 512) (t : AlarmTable) : AlarmTable :=
  let t := setAlarm e.clock a .unackActive t
  { t with
    recs := t.recs.upd a fun x => { x with raises := satInc 255 x.raises }
    buckets := fillBucket t.buckets
    groups := captureGroup e a t.groups }

/-- The raise counted by priority in the open shift (R126 step 6, R144). -/
def countRaise (p : Fin 4) (x : ShiftRecord) : ShiftRecord := { x with raises := x.raises.upd p (satInc max32) }

/-- Steps 1 to 6 of a taken raise (R126). -/
def takeRaise (e : RepEnv) (a : Fin 512) (r : Reporting) : Reporting :=
  feedShift (countRaise (e.cfg.nth a).priority) { r with alarms := raiseRecord e a r.alarms }

/-- One lost notice: lost count, NOTICE-LOST, the open shift's count (R150 steps 1 to 3). -/
def countLoss (r : Reporting) : Reporting :=
  feedShift (fun x => { x with noticesLost := satInc max32 x.noticesLost })
    { r with
      notices := { r.notices with lost := satInc 65535 r.notices.lost }
      sticky := { r.sticky with noticeLost := true } }

/-- File a new notice and count the loss it may cause; the second component says whether a notice was lost and alarm 97
is to be raised (R147, R149, R150). -/
def fileNotice (clock : Nat) (b : NoticeBody) (cls : NoticeClass) (r : Reporting) : Reporting × Bool :=
  let filed := fileNew clock b cls r.notices
  if filed.2 then (countLoss { r with notices := filed.1 }, true) else ({ r with notices := filed.1 }, false)

/-- The class of an alarm's notices by its present priority (R131). -/
def alarmClass (p : Fin 4) : NoticeClass := if 2 ≤ p then .urgent else .routine

/-- Hand the present state of alarm `a` to the Notice Queues: coalesced, or filed anew (R131, R148). -/
def handOver (e : RepEnv) (a : Fin 512) (r : Reporting) : Reporting × Bool :=
  let st := (r.alarms.recs.nth a).state
  match r.notices.link.nth a with
  | some c => ({ r with notices := coalesce e.clock a st c r.notices }, false)
  | none => fileNotice e.clock (.alarm a st) (alarmClass (e.cfg.nth a).priority) r

/-- Hand over a change of state by a raise or a clear, or hold it back (R131, R132). -/
def tell (e : RepEnv) (a : Fin 512) (r : Reporting) : Reporting × Bool :=
  if heldBack e a r.alarms then ({ r with alarms := setHeld a true r.alarms }, false) else handOver e a r

/-- The flood goes ON (R141). -/
def floodOn (r : Reporting) : Reporting := { r with alarms := { r.alarms with flood := true } }

/-- A raise of alarm `a` (R126), with the raise of alarm 97 that a lost notice brings (R150 step 4) and of alarm 100 at
the flood going ON (R141). A taken raise makes its alarm active, so the chain is `a`, 97, 100, 97 at most, and `fuel` 4
is never used up. -/
def raiseChain : Nat → RepEnv → Fin 512 → Reporting → Reporting
  | 0, _, _, r => r
  | fuel + 1, e, a, r =>
    if (r.alarms.recs.nth a).state.active then r
    else
      let told := tell e a (takeRaise e a r)
      let r := if told.2 then raiseChain fuel e 97 told.1 else told.1
      if !r.alarms.flood && decide (e.threshold < floodSum r.alarms) then raiseChain fuel e 100 (floodOn r) else r

/-- A raise of alarm `a` (R126). -/
def raiseAlarm (e : RepEnv) (a : Fin 512) (r : Reporting) : Reporting := raiseChain 4 e a r

/-- Raise alarm 97 when a notice was lost (R150 step 4). -/
def afterLoss (e : RepEnv) (x : Reporting × Bool) : Reporting := if x.2 then raiseAlarm e 97 x.1 else x.1

/-- A clear of alarm `a` (R127). -/
def clearAlarm (e : RepEnv) (a : Fin 512) (r : Reporting) : Reporting :=
  match (r.alarms.recs.nth a).state with
  | .unackActive => afterLoss e (tell e a { r with alarms := setAlarm e.clock a .unackCleared r.alarms })
  | .ackActive => afterLoss e (tell e a { r with alarms := setAlarm e.clock a .normal r.alarms })
  | .normal | .unackCleared => r

/-- The state an acknowledgement leaves (Table 7-4). -/
def AlarmState.acked : AlarmState → AlarmState
  | .unackActive => .ackActive
  | .unackCleared => .normal
  | .normal => .normal
  | .ackActive => .ackActive

/-- An acknowledgement of alarm `a`: state and counts, and the in-place update of its queued cell unless it is held back
(R128, R148). -/
def ackAlarm (e : RepEnv) (a : Fin 512) (r : Reporting) : Reporting :=
  let st := (r.alarms.recs.nth a).state
  if st.unacked then
    let t := setAlarm e.clock a st.acked r.alarms
    match r.notices.link.nth a with
    | some c =>
      { r with alarms := t, notices := if heldBack e a t then r.notices else coalesce e.clock a st.acked c r.notices }
    | none => { r with alarms := t }
  else r

/-- Release of alarm `a`, when no hold remains and its held notice flag is YES (R133). -/
def releaseAlarm (e : RepEnv) (a : Fin 512) (r : Reporting) : Reporting :=
  let x := r.alarms.recs.nth a
  if x.held && !heldBack e a r.alarms then
    let r := { r with alarms := setHeld a false r.alarms }
    if x.state == .normal then r else afterLoss e (handOver e a r)
  else r

/-- Releases of several alarms, in the order given (R133). -/
def releaseEach (e : RepEnv) (as : List (Fin 512)) (r : Reporting) : Reporting :=
  as.foldl (fun r a => releaseAlarm e a r) r

/-- The alarms with a held notice, lowest first. -/
def heldAlarms (t : AlarmTable) : List (Fin 512) := t.recs.select (·.held)

/-- The releases of an event that may end many holds: a mode change, the flood going OFF (R133). -/
def releaseHeld (e : RepEnv) (r : Reporting) : Reporting := releaseEach e (heldAlarms r.alarms) r

/-- Post a notice of a kind other than ALARM (R147). -/
def postNotice (e : RepEnv) (b : NoticeBody) (cls : NoticeClass) (r : Reporting) : Reporting :=
  afterLoss e (fileNotice e.clock b cls r)

/-- The flood goes OFF when it is ON and the sum has fallen to half the threshold: alarm 100 cleared, held notices
released (R141). An alarm 100 of priority 0 is no longer held by the flood at its clear: the flood is set OFF first, the
clear is handed over, and a notice held from its raise is released with the rest as a second one (the model's choice,
assumption log 35). -/
def floodOff (e : RepEnv) (r : Reporting) : Reporting :=
  if r.alarms.flood && decide (floodSum r.alarms ≤ e.threshold / 2) then
    releaseHeld e (clearAlarm e 100 { r with alarms := { r.alarms with flood := false } })
  else r

/-- A second expiry of the Alarm Table: the flood second, the buckets, the flood (R140, R141, R144). -/
def floodSecond (e : RepEnv) (r : Reporting) : Reporting :=
  let r := if r.alarms.flood then feedShift (fun x => { x with floodSeconds := satInc max32 x.floodSeconds }) r else r
  floodOff e { r with alarms := { r.alarms with buckets := ageBuckets r.alarms.buckets, secondTimer := Config.sec 1 } }

/-! Shelving (R136 to R138) -/

/-- Put every alarm of a block on the shelf (R136). -/
def shelveEach (minutes : Nat) (as : List (Fin 512)) (t : AlarmTable) : AlarmTable :=
  let shelve : AlarmRec → AlarmRec := fun x => { x with shelved := true, shelveMinutes := minutes }
  { t with recs := as.foldl (fun recs a => recs.upd a shelve) t.recs }

/-- Take alarms off the shelf (R137, R138). -/
def unshelveEach (as : List (Fin 512)) (t : AlarmTable) : AlarmTable :=
  let unshelve : AlarmRec → AlarmRec := fun x => { x with shelved := false, shelveMinutes := 0 }
  { t with recs := as.foldl (fun recs a => recs.upd a unshelve) t.recs }

/-- One minute of the shelves: every shelved alarm's minutes lowered by 1 (R138). -/
def lowerMinutes (t : AlarmTable) : AlarmTable :=
  let lower : AlarmRec → AlarmRec := fun x =>
    if x.shelved then { x with shelveMinutes := x.shelveMinutes - 1 } else x
  { t with recs := Tab.mapAll lower t.recs }

/-- A minute expiry of the Alarm Table (R138). -/
def shelveMinute (e : RepEnv) (r : Reporting) : Reporting :=
  let t := lowerMinutes r.alarms
  let due := t.recs.select fun x => x.shelved && x.shelveMinutes == 0
  releaseEach e due { r with alarms := { unshelveEach due t with minuteTimer := Config.sec 60 } }

end Sys2Proof.Machine
end

