-- ==== Sys2Proof/Machine/ResetValues.lean ====
section
/-! DEFINITION. The values each block begins with at a reset (R17, R40, R73, R88, R111, R123, R145, R153, R164, R166, R181). -/

namespace Sys2Proof.Machine

/-- A point after reset (R17). -/
def PointRec.begin : PointRec :=
  { underlying := 0, quality := .unset, age := 0, force := none, cond := Tab.fill false }

/-- An input after reset (R17): OFF and unforced; a pin that is high starts its debounce at the reset (R10,
assumption log 7). -/
def InputRec.begin (debounce : Nat) (pin : Bool) : InputRec :=
  { pin := pin, level := false, candidate := pin, timer := if pin then some (Config.ms debounce) else none,
    forceMask := false, forceData := false }

/-- E-STOP after reset: UNHEALTHY, counting toward HEALTHY when the pin is high (R11). -/
def EstopRec.begin (debounce : Nat) (pinHigh : Bool) : EstopRec :=
  { pinHigh := pinHigh, healthy := false, timer := if pinHigh then some (Config.ms debounce) else none }

/-- KEY after reset: OFF, then following its pin (R11). -/
def KeyRec.begin (debounce : Nat) (pin : Bool) : KeyRec :=
  { pin := pin, on := false, candidate := pin, timer := if pin then some (Config.ms debounce) else none }

/-- The Point Table after reset, for the levels its pins have (R17). -/
def PointTable.begin (g : GeneralCfg) (inputPins : Tab 16 Bool) (estopPin keyPin : Bool) : PointTable :=
  { points := Tab.fill .begin
    inputs := Tab.mapAll (InputRec.begin g.debounce) inputPins
    estop := .begin g.debounce estopPin
    key := .begin g.debounce keyPin
    supervision := Config.ms g.supervision }

/-- The dark limit: ceil(latched FFRT / latched flame window) (Table 2-1). -/
def TimingSet.darkLimit (t : TimingSet) : Nat := (t.ffrt + t.flameWindow - 1) / t.flameWindow

/-- A scanner after reset (R40). -/
def ScannerRec.begin : ScannerRec := { counter := 0, last := 0, verdict := .dark }

/-- A burner after reset (R40). -/
def BurnerRec.begin (cause : LockoutCause) (clock : Nat) (cfg : BurnerCfg) : BurnerRec :=
  { state := .lockedOut, stepRunning := false, stepLeft := 0, latched := cfg.timing, darkLimit := cfg.timing.darkLimit,
    cause := cause, lockoutTime := clock, proven := 0, dark := 0, disagree := none, grace := none, air := .lost,
    scanA := .begin, scanB := .begin, flameTimer := Config.ms cfg.timing.flameWindow, unjudged := false,
    pilot := false, mainp := false }

/-- A line after reset (R73). -/
def LineRec.begin (cfg : LineCfg) : LineRec :=
  { requested := .off, actual := .off, manualRate := cfg.rmin, rate := 0, target := 0, assigned := 0, faults := 0,
    window := none, lastF := 0, lastExpected := 0, metering := .volumetric, massRem := 0, heatRem := 0,
    driveLimit := .none }

/-- A burner demand record after reset (R73). -/
def DemandRec.begin : DemandRec :=
  { target := 0, trim := 0, effective := 0, split := 0, shortfall := 0, overfire := 0, shortCount := 0 }

/-- The CV and the Kf of a line's settings (R43). -/
def LineCfg.factors (cfg : LineCfg) : LineFactors := { cv := cfg.cv, kf := cfg.kf }

/-- The Fuel Line Controller after reset (R73). The factors in force are those of the working settings: nothing has been
written that a processing has still to take (R44). -/
def FuelCtl.begin (cfg : Settings) : FuelCtl :=
  { lines := Tab.mapAll .begin cfg.lines, demands := Tab.fill .begin,
    factors := Tab.mapAll LineCfg.factors cfg.lines, ignition := Tab.fill none,
    periodLeft := Config.ms cfg.fuel.controlPeriod, periodLength := Config.ms cfg.fuel.controlPeriod, fraction := 0 }

/-- A channel after reset (R88). -/
def ChannelRec.begin : ChannelRec :=
  { active := none, staged := none, running := false, high := false, position := 0, prescale := 0, emitted := 0,
    edges := 0, marker := .none }

/-- A grate after reset (R111). -/
def GrateRec.begin : GrateRec :=
  { state := .stopped, speed := 0, windowSpeed := 0, windowValid := false, stalls := 0, strokes := 0, expected := 0,
    cycles := 0, driveLimit := .none }

/-- The Cooler Controller after reset (R111). -/
def CoolerCtl.begin (cfg : CoolerCfg) : CoolerCtl :=
  { state := .standby, s0 := 0, pileCount := 0, pressure := 0, pressureFresh := false, boost := false,
    cutback := false, grates := Tab.fill .begin, fans := Tab.fill { hostRef := 0, applied := cfg.fanMin },
    periodLeft := Config.sec cfg.period, periodLength := cfg.period }

/-- The Kiln Mode Controller after reset (R123). -/
def KilnCtl.begin : KilnCtl := { mode := .off, pendingShutdown := Tab.fill false }

/-- An alarm after reset (R145). -/
def AlarmRec.begin (clock : Nat) : AlarmRec :=
  { state := .normal, shelved := false, shelveMinutes := 0, held := false, raises := 0, time := clock }

/-- An armed first-out group (R143, R145). -/
def FirstOutRec.begin : FirstOutRec := { armed := true, first := none, firstTime := 0, subsequent := 0 }

/-- The Alarm Table after reset, before the start-up raises (R145), given the mode held at reset, OFF (R123). -/
def AlarmTable.begin (clock : Nat) : AlarmTable :=
  { recs := Tab.fill (.begin clock), mode := .off, groups := Tab.fill .begin, buckets := List.replicate 10 0, flood := false,
    unackCount := 0, activeCount := 0, minuteTimer := Config.sec 60, secondTimer := Config.sec 1 }

/-- The Notice Queues after reset, before the START notice (R153); the free list in cell order (assumption log 24). -/
def NoticeQueues.begin : NoticeQueues :=
  { cells := Tab.fill none, free := List.finRange 256, urgent := [], routine := [], link := Tab.fill none, lost := 0,
    attention := false }

/-- An open record that begins at `clock` with every flag clear and every count 0 (R158 step 4, R164). Its end time and
substitution rate are set at the close; until then the model stores 0 (the model's choice, assumption log 47). -/
def ShiftRecord.fresh (seq clock : Nat) : ShiftRecord :=
  { seq := seq, startTime := clock, endTime := 0, cause := .none, startedAfterReset := false, clockSetDuring := false,
    deferredClose := false, elapsed := 0, modeSeconds := Tab.fill 0,
    lines := Tab.fill { kg := 0, weighSeconds := 0, volumetricSeconds := 0, trips := 0 },
    burners := Tab.fill { heatMJ := 0, firingSeconds := 0, lockouts := 0 }, totalMJ := 0, altMJ := 0,
    strokes := Tab.fill 0, pileUpSeconds := 0, coolerTrips := 0, raises := Tab.fill 0, floodSeconds := 0,
    noticesLost := 0, substitution := 0 }

/-- The carries after reset (R164). -/
def Carries.begin : Carries :=
  { lines := Tab.fill { grams := 0, weighMs := 0, volumetricMs := 0 }, burnerKJ := Tab.fill 0, totalKJ := 0, altKJ := 0 }

/-- An EMPTY slot (R164). -/
def Slot.empty : Slot := { report := none, hold := 0 }

/-- The highest sequence number among the FULL slots and the valid stored copies, 0 when there is none (R164). -/
def highestSeq (ring : Tab 8 Slot) (copies : Tab 2 (Option ShiftRecord)) : Nat :=
  (ring.toList.filterMap (·.report) ++ copies.toList.filterMap id).foldl (fun n r => max n r.seq) 0

/-- The Shift Accumulator after reset, with the ring the reset leaves (R164). -/
def ShiftAcc.begin (ring : Tab 8 Slot) (copies : Tab 2 (Option ShiftRecord)) (clock : Nat) : ShiftAcc :=
  { openRec := { ShiftRecord.fresh (1 + highestSeq ring copies) clock with startedAfterReset := true },
    carries := .begin, ring := ring, timer := Config.sec 1, closePending := .none }

/-- The sticky flags after reset (R166, R181). -/
def StickyFlags.begin (clockUnset : Bool) : StickyFlags :=
  { crcError := false, overrun := false, noticeLost := false, protectViolation := false, storeFault := false,
    clockUnset := clockUnset }

/-- Link rate code of the strap levels: 0 for 19,200 baud to 3 for 460,800 (R166, R172). -/
def Straps.rate (p : Straps) : Fin 4 :=
  match p.baud1, p.baud0 with
  | false, false => 0 | false, true => 1 | true, false => 2 | true, true => 3

/-- The Link Port after reset (R166). R166 gives the receiver no reset value; the model has it hunt at once, whatever the line
carried before (the model's choice, assumption log 52). -/
def LinkPort.begin (p : Straps) : LinkPort :=
  { rate := p.rate, state := .waiting, hunting := true, hold := none, reply := none, silence := none, errors := 0,
    restartPending := false }

/-- The store after reset: IDLE with both pending slots empty (R181). -/
def StoreCtl.begin : StoreCtl := { inFlight := none, pendingSettings := none, pendingReport := none }

/-- The reporting side as a reset leaves it, before the start-up notices and alarms. -/
def Reporting.begin (ring : Tab 8 Slot) (copies : Tab 2 (Option ShiftRecord)) (clock : Nat) (clockUnset : Bool) :
    Reporting :=
  { alarms := .begin clock, notices := .begin, shift := .begin ring copies clock, sticky := .begin clockUnset }

/-- The reporting side after the POWER-ON of a part whose stored image is invalid, written out (R153, R181): the START
notice in cell 0, alarm 103 CLOCK UNSET (priority 1) raised into cell 1 of ROUTINE, then alarm 98 SETTINGS INVALID
(priority 3) raised into cell 2 of URGENT; both raises counted in the current bucket and in the open shift. -/
def Reporting.afterFirstPowerOn : Reporting :=
  let raised : AlarmRec := { AlarmRec.begin 0 with state := .unackActive, raises := 1 }
  let q := NoticeQueues.begin
  { alarms := { AlarmTable.begin 0 with
      recs := ((AlarmTable.begin 0).recs.put 103 raised).put 98 raised
      buckets := 2 :: List.replicate 9 0
      unackCount := 2, activeCount := 2 }
    notices := { q with
      cells := ((q.cells.put 0 (some { body := .start .powerOn, cls := .routine, firstTime := 0, lastTime := 0,
                                       transitions := 1 })).put 1
                 (some { body := .alarm 103 .unackActive, cls := .routine, firstTime := 0, lastTime := 0,
                         transitions := 1 })).put 2
                 (some { body := .alarm 98 .unackActive, cls := .urgent, firstTime := 0, lastTime := 0,
                         transitions := 1 })
      free := q.free.drop 3, urgent := [2], routine := [0, 1]
      link := (q.link.put 103 (some 1)).put 98 (some 2)
      attention := true }
    shift := let sh := ShiftAcc.begin (Tab.fill .empty) (Tab.fill none) 0
             { sh with openRec := { sh.openRec with raises := ((Tab.fill 0).put 1 1).put 3 1 } }
    sticky := .begin true }

end Sys2Proof.Machine
end

