-- ==== Sys2Proof/Machine/State.lean ====
section
/-! DEFINITION. The state of the 7240 as plain data, why a step could stop, and the machine right after reset. -/

namespace Sys2Proof.Machine

/-- The whole part: working settings and lock level, plant clock, reset cause, straps, the records of the eleven blocks
(Table 0-1), and the queue of commands that wait, first in, first out. -/
structure State where
  settings : Settings
  lock : Fin 4
  clock : Nat
  clockTimer : Nat
  resetCause : ResetCause
  straps : Straps
  points : PointTable
  burners : Tab 3 BurnerRec
  fuel : FuelCtl
  channels : Tab 24 ChannelRec
  cooler : CoolerCtl
  kiln : KilnCtl
  rep : Reporting
  link : LinkPort
  nv : Nonvolatile
  store : StoreCtl
  pending : List Instr
  deriving DecidableEq, Repr

/-- Faults: none. The manual names no condition that stops the part; it answers every command with an effect, a refusal
reply or no change. Raised by nobody; safe. -/
inductive Fault where
  deriving DecidableEq, Repr

/-- Refusals. -/
inductive Refusal where
  /-- A command of the table that has no meaning in the model yet, by its mnemonic. Raised by `exec`'s arms only, and by
  none of them now; safe. -/
  | notModelled (mnemonic : String)
  deriving DecidableEq, Repr

/-- The part right after POWER-ON: a part whose non-volatile storage holds nothing valid (assumption log 5), so factory
defaults are loaded with lock level 3 and lockout cause SETTINGS (R40, R181); straps and pins low (assumption log 6);
START notice posted and alarms 103 and 98 raised (R153, R181); queue empty. -/
def State.reset : State :=
  let cfg := Settings.factory
  { settings := cfg, lock := 3, clock := 0, clockTimer := Config.sec 1, resetCause := .powerOn,
    straps := { baud1 := false, baud0 := false },
    points := .begin cfg.general (Tab.fill false) false false,
    burners := Tab.mapAll (.begin .settings 0) cfg.burners,
    fuel := .begin cfg, channels := Tab.fill .begin, cooler := .begin cfg.cooler, kiln := .begin,
    rep := .afterFirstPowerOn, link := .begin { baud1 := false, baud0 := false },
    nv := { image := none, lockRecord := none, copies := Tab.fill none }, store := .begin, pending := [] }

end Sys2Proof.Machine
end

