-- ==== Sys2Proof/Machine/Ops.lean ====
section
/-! DEFINITION. The operations that every family shares: an outcome, raising and clearing alarms, posting notices, feeding
the open shift, answering a request, and the byte forms of reply fields (R126, R127, R147, R154, R167, R170). -/

namespace Sys2Proof.Machine

/-- What a command answers. -/
abbrev Result := Host.Outcome State Fault Refusal

/-- What the reporting side reads of the other blocks. -/
def env (s : State) : RepEnv :=
  { cfg := s.settings.alarms, threshold := s.settings.floodThreshold, clock := s.clock }

/-- The reporting side changed. -/
def onRep (f : RepEnv → Reporting → Reporting) (s : State) : State := { s with rep := f (env s) s.rep }

/-- Raise alarm `a` (R126). -/
def raise (a : Fin 512) : State → State := onRep fun e => raiseAlarm e a

/-- Clear alarm `a` (R127). -/
def clear (a : Fin 512) : State → State := onRep fun e => clearAlarm e a

/-- A condition alarm follows its condition: raised while it holds, cleared while it does not (R129). -/
def follow (a : Fin 512) (cond : Bool) : State → State := if cond then raise a else clear a

/-- Post a notice of a kind other than ALARM (R147). -/
def post (b : NoticeBody) (cls : NoticeClass) : State → State := onRep fun e => postNotice e b cls

/-- Feed a field of the open shift (R154). -/
def feed (f : ShiftRecord → ShiftRecord) : State → State := onRep fun _ => feedShift f

/-- The sticky flags changed. -/
def setSticky (f : StickyFlags → StickyFlags) (s : State) : State :=
  { s with rep := { s.rep with sticky := f s.rep.sticky } }

/-! Alarm numbers (00_scope.md, Names and numbering) -/

/-- Alarm +k of burner `n`: 16n + k. -/
def burnerAlarm (n : Fin 3) (k : Fin 16) : Fin 512 := ⟨16 * n.val + k.val, by omega⟩

/-- Alarm +k of line `m`: 48 + 4m + k. -/
def lineAlarm (m : Fin 6) (k : Fin 4) : Fin 512 := ⟨48 + 4 * m.val + k.val, by omega⟩

/-- The alarm of limit `j` of point `p`: 128 + 4p + j. -/
def limitAlarm (p : Fin 96) (j : Fin 4) : Fin 512 := ⟨128 + 4 * p.val + j.val, by omega⟩

/-- GRATE n STALL: 81 to 83. -/
def stallAlarm (n : Fin 3) : Fin 512 := ⟨81 + n.val, by omega⟩

/-! Requests -/

/-- The outcome of a request at its owning block: the state it leaves, its status, its data (R169). -/
abbrev Answer := State × Status × List Byte

/-- A refused request changes no state and carries no data (R170). -/
def refuse (st : Status) (s : State) : Answer := (s, st, [])

/-- A request answered OK. -/
def ok (data : List Byte) (s : State) : Answer := (s, .ok, data)

/-- Put the reply of a request in the reply buffer: code and tag of the request, status, data (R167). -/
def respond (code tag : Byte) (a : Answer) : State :=
  { a.1 with link := { a.1.link with reply := some { code := code, tag := tag, status := a.2.1, data := a.2.2 } } }

/-- A request served and answered. After a RESTART is answered, a request is lost with the reset (R173, assumption
log 4). -/
def answer (code tag : Byte) (serve : State → Answer) (s : State) : Result :=
  .next (if s.link.restartPending then s else respond code tag (serve s))

/-! Byte forms of reply fields (R167) -/

/-- A point value or another 32-bit field. -/
def wordBytes (w : Word) : List Byte := beBytes 4 w.toNat

/-- A signed number in 4 bytes, two's complement. -/
def intBytes (i : Int) : List Byte := wordBytes (BitVec.ofInt 32 i)

/-- An optional number in `k` bytes: all bits set when absent. -/
def optBytes (k : Nat) (o : Option Nat) : List Byte :=
  match o with
  | some n => beBytes k n
  | none => List.replicate k 0xFF#8

/-- A set as one bit for each member number, bit 0 for member 0. The bits above the last member are 0: R165 gives that for
the report flags byte alone, for the other bytes it is the model's choice (assumption log 56). -/
def bitsOf (bs : List Bool) : Nat := bs.foldr (fun b n => yesNo b + 2 * n) 0

/-- A byte that names one of `n` numbers, if it does. -/
def number? (n : Nat) (b : Byte) : Option (Fin n) := if h : b.toNat < n then some ⟨b.toNat, h⟩ else none

end Sys2Proof.Machine
end

