-- ==== Sys2Proof/Machine/AlarmRequests.lean ====
section
/-! DEFINITION. The alarm and notice requests and the Alarm Table's two timers (R134 to R143, R151). -/

namespace Sys2Proof.Machine

/-- The block selector takes a base and a span exponent: a base below 512 that is a multiple of 2^e, and e at most 9
(R134). -/
def blockTaken (base : Half) (e : Byte) : Bool :=
  decide (base.toNat < 512) && decide (e.toNat ≤ 9) && base.toNat % 2 ^ (min e.toNat 9) == 0

/-- Alarm `a` is one of the 2^e alarms of the block (R134). -/
def inBlock (base : Half) (e : Byte) (a : Fin 512) : Bool :=
  decide (base.toNat ≤ a.val) && decide (a.val < base.toNat + 2 ^ (min e.toNat 9))

/-- The alarms of the block whose records satisfy `p`, lowest first. -/
def blockSelect (base : Half) (e : Byte) (p : AlarmRec → Bool) (t : AlarmTable) : List (Fin 512) :=
  (t.recs.select p).filter (inBlock base e)

/-- ACK ALARMS at the Alarm Table (R135). -/
def ackAlarms (base : Half) (e : Byte) (s : State) : Answer :=
  if blockTaken base e then
    let as := blockSelect base e (·.state.unacked) s.rep.alarms
    let t := onRep (fun ev r => as.foldl (fun r a => ackAlarm ev a r) r) s
    ok (beBytes 2 as.length ++ beBytes 2 t.rep.alarms.unackCount) t
  else refuse .range s

/-- ACK ALARMS (R135). -/
def execAckAlarms (tag : Byte) (base : Half) (e : Byte) (s : State) : Result := answer 0x38#8 tag (ackAlarms base e) s

/-- SHELVE ALARMS at the Alarm Table (R136). -/
def shelveAlarms (base : Half) (e : Byte) (minutes : Half) (s : State) : Answer :=
  if blockTaken base e && decide (1 ≤ minutes.toNat) && decide (minutes.toNat ≤ 480) then
    let newly := blockSelect base e (fun x => !x.shelved) s.rep.alarms
    let block := blockSelect base e (fun _ => true) s.rep.alarms
    ok (beBytes 2 newly.length)
      (onRep (fun _ r => { r with alarms := shelveEach minutes.toNat block r.alarms }) s)
  else refuse .range s

/-- SHELVE ALARMS (R136). -/
def execShelveAlarms (tag : Byte) (base : Half) (e : Byte) (minutes : Half) (s : State) : Result :=
  answer 0x39#8 tag (shelveAlarms base e minutes) s

/-- UNSHELVE ALARMS at the Alarm Table (R137). -/
def unshelveAlarms (base : Half) (e : Byte) (s : State) : Answer :=
  if blockTaken base e then
    let as := blockSelect base e (·.shelved) s.rep.alarms
    ok (beBytes 2 as.length)
      (onRep (fun ev r => releaseEach ev as { r with alarms := unshelveEach as r.alarms }) s)
  else refuse .range s

/-- UNSHELVE ALARMS (R137). -/
def execUnshelveAlarms (tag : Byte) (base : Half) (e : Byte) (s : State) : Result :=
  answer 0x3A#8 tag (unshelveAlarms base e) s

/-- One alarm record of the READ ALARMS reply (Table 10-6); the unused bits of suppression set and flags are 0 (assumption
log 56). -/
def alarmBytes (s : State) (a : Fin 512) : List Byte :=
  let x := s.rep.alarms.recs.nth a
  let cfg := s.settings.alarms.nth a
  beBytes 2 a.val ++ beBytes 1 x.state.code ++ beBytes 1 cfg.priority.val ++ optBytes 1 (cfg.group.map (·.val)) ++
    beBytes 1 cfg.suppress.toNat ++ beBytes 1 (bitsOf [x.shelved, x.held, (s.rep.notices.link.nth a).isSome]) ++
    beBytes 2 x.shelveMinutes ++ beBytes 1 x.raises ++ beBytes 4 x.time

/-- READ ALARMS at the Alarm Table: at most 32 records from base + offset (R139). -/
def readAlarms (base : Half) (e : Byte) (offset : Half) (s : State) : Answer :=
  if blockTaken base e && decide (offset.toNat < 2 ^ (min e.toNat 9)) then
    let as := ((blockSelect base e (fun _ => true) s.rep.alarms).drop offset.toNat).take 32
    ok (beBytes 2 base.toNat ++ beBytes 1 e.toNat ++ beBytes 2 offset.toNat ++ beBytes 1 as.length ++
        beBytes 2 s.rep.alarms.unackCount ++ beBytes 2 s.rep.alarms.activeCount ++
        beBytes 1 (yesNo s.rep.alarms.flood) ++ as.flatMap (alarmBytes s)) s
  else refuse .range s

/-- READ ALARMS (R139). -/
def execReadAlarms (tag : Byte) (base : Half) (e : Byte) (offset : Half) (s : State) : Result :=
  answer 0x3B#8 tag (readAlarms base e offset) s

/-- One first-out record of the READ FIRST-OUT reply (Table 10-7). -/
def firstOutBytes (x : FirstOutRec) : List Byte :=
  beBytes 1 (yesFirst x.armed) ++ optBytes 2 (x.first.map (·.val)) ++ beBytes 4 x.firstTime ++ beBytes 2 x.subsequent

/-- READ FIRST-OUT at the Alarm Table (R143). -/
def readFirstOut (s : State) : Answer := ok (s.rep.alarms.groups.toList.flatMap firstOutBytes) s

/-- READ FIRST-OUT (R143). -/
def execReadFirstOut (tag : Byte) (s : State) : Result := answer 0x3C#8 tag readFirstOut s

/-- Rearm group `g` (R143). -/
def rearm (g : Fin 8) (s : State) : State :=
  { s with rep := { s.rep with alarms := { s.rep.alarms with groups := s.rep.alarms.groups.put g .begin } } }

/-- REARM FIRST-OUT at the Alarm Table (R143). -/
def rearmFirstOut (group : Byte) (s : State) : Answer :=
  match number? 8 group with
  | none => refuse .range s
  | some g => ok [] (rearm g s)

/-- REARM FIRST-OUT (R143). -/
def execRearmFirstOut (tag group : Byte) (s : State) : Result := answer 0x3D#8 tag (rearmFirstOut group) s

/-- FETCH NOTICES at the Notice Queues (R151, Table 10-7). -/
def fetchNotices (n : Byte) (s : State) : Answer :=
  if 1 ≤ n.toNat ∧ n.toNat ≤ 16 then
    let q := s.rep.notices
    let taken := fetched n.toNat q
    let q' := fetchCells n.toNat q
    ok (beBytes 1 taken.length ++ beBytes 2 q'.urgent.length ++ beBytes 2 q'.routine.length ++
        (taken.filterMap fun c => q.cells.nth c).flatMap cellBytes)
      { s with rep := { s.rep with notices := q' } }
  else refuse .range s

/-- FETCH NOTICES (R151). -/
def execFetchNotices (tag n : Byte) (s : State) : Result := answer 0x40#8 tag (fetchNotices n) s

/-- SHELVE MINUTE EXPIRY (R138). -/
def execShelveMinuteExpiry (s : State) : Result := .next (onRep shelveMinute s)

/-- FLOOD SECOND EXPIRY (R140, R141). -/
def execFloodSecondExpiry (s : State) : Result := .next (onRep floodSecond s)

end Sys2Proof.Machine
end

