-- ==== Sys2Proof/Machine/Channels.lean ====
section
/-! DEFINITION. The Pulse Channel Array: conversion, starting, staging, halting, cycle ends, counting and captures
(R79 to R86). -/

namespace Sys2Proof.Machine

/-! Conversion -/

/-- P of a frequency in cHz at prescaler value `k`: floor(400,000,000 / (2^(k+1) × f)) (R79). -/
def periodAt (f k : Nat) : Nat := 400000000 / (2 ^ (k + 1) * f)

/-- The k of a frequency: the prescaler setting, or with AUTO the smallest with P ≤ 65,535, else 11 (R79). -/
def freqK (pre : Option (Fin 12)) (f : Nat) : Nat :=
  match pre with
  | some k => k.val
  | none => ((List.range 12).find? fun k => decide (periodAt f k ≤ 65535)).getD 11

/-- The setting and the marker of a frequency (R79). -/
def convertFreq (pre : Option (Fin 12)) (f : Nat) : PulseSetting × Marker :=
  let k := freqK pre f
  let p := periodAt f k
  if 65535 < p then ({ k := k, p := 65535, h := 0 }, .lowLimit)
  else if p < 2 then ({ k := k, p := 2, h := 0 }, .highLimit)
  else ({ k := k, p := p, h := 0 }, .none)

/-- The setting of a duty reference: AUTO taken as k 0, H = floor(P × r / 1000) with r clamped to 1,000 (R81). -/
def convertDuty (cfg : ChannelCfg) (r : Nat) : PulseSetting :=
  { k := match cfg.prescaler with | some k => k.val | none => 0
    p := cfg.dutyPeriod, h := cfg.dutyPeriod * min r 1000 / 1000 }

/-! One channel -/

/-- The output level at the start of a cycle: HIGH for FREQ, and for DUTY when H is above 0 (R80, R81, R82). -/
def firstLevel (mode : ChannelMode) (x : PulseSetting) : Bool :=
  match mode with
  | .duty => decide (0 < x.h)
  | .freq | .off | .count => true

/-- A channel with the first count of a cycle on setting `x`. -/
def beginCycle (mode : ChannelMode) (x : PulseSetting) (ch : ChannelRec) : ChannelRec :=
  { ch with active := some x, staged := none, high := firstLevel mode x, position := 0, prescale := 0 }

/-- A setting handed to an output channel: a HALTED one starts on it, a RUNNING one stages it (R82, R83). -/
def handTo (mode : ChannelMode) (x : PulseSetting) (ch : ChannelRec) : ChannelRec :=
  if ch.running then { ch with staged := some x } else { beginCycle mode x ch with running := true }

/-- A halt (R84). -/
def haltChannel (ch : ChannelRec) : ChannelRec :=
  { ch with high := false, running := false, staged := none, position := 0, prescale := 0, marker := .none }

/-- A frequency handed over, 0 being a halt; the marker is the result of the conversion (R79, R84). -/
def handFreq (cfg : ChannelCfg) (f : Nat) (ch : ChannelRec) : ChannelRec :=
  if f = 0 then haltChannel ch
  else { handTo cfg.mode (convertFreq cfg.prescaler f).1 ch with marker := (convertFreq cfg.prescaler f).2 }

/-- A reference handed over (R81). -/
def handDuty (cfg : ChannelCfg) (r : Nat) (ch : ChannelRec) : ChannelRec := handTo cfg.mode (convertDuty cfg r) ch

/-- The end of an output cycle (R80). A HALTED channel has none (R84). -/
def endCycle (mode : ChannelMode) (ch : ChannelRec) : ChannelRec :=
  if ch.running then
    match ch.staged, ch.active with
    | some x, _ => beginCycle mode x { ch with emitted := satInc max32 ch.emitted }
    | none, some x => beginCycle mode x { ch with emitted := satInc max32 ch.emitted }
    | none, none => ch
  else ch

/-- The output goes LOW when the position reaches the high time of the running cycle: P in FREQ, H in DUTY, where a cycle
with H = P stays HIGH (R80, R81). -/
def lowerAt (highTime : PulseSetting → Nat) (cycle : PulseSetting → Nat) (ch : ChannelRec) : ChannelRec :=
  match ch.active with
  | some x =>
    if ch.running && ch.high && decide (highTime x < cycle x) then { ch with high := false, position := highTime x }
    else ch
  | none => ch

/-- What a taken write of mode or owner that changes the value does to the channel (R78). -/
def clearChannel (ch : ChannelRec) : ChannelRec :=
  { haltChannel ch with active := none, emitted := 0, edges := 0 }

/-! Channels of the part -/

/-- Channel `c` changed. -/
def onChannel (c : Fin 24) (f : ChannelRec → ChannelRec) (s : State) : State :=
  { s with channels := s.channels.upd c f }

/-- The channel of a role changed, when a channel carries the role. -/
def onRole (r : Role) (f : ChannelCfg → ChannelRec → ChannelRec) (s : State) : State :=
  match s.settings.channelOf r with
  | some c => onChannel c (f (s.settings.channels.nth c)) s
  | none => s

/-- A channel carries the role. -/
def assigned (s : State) (r : Role) : Bool := (s.settings.channelOf r).isSome

/-- The marker the channel of a role last gave, NONE without a channel. -/
def markerOf (r : Role) (s : State) : Marker :=
  match s.settings.channelOf r with
  | some c => (s.channels.nth c).marker
  | none => .none

/-- Capture of the edge counter of a role's channel: its value, or 0 without a channel, and the counter at 0 (R86). -/
def captureEdges (r : Role) (s : State) : Nat × State :=
  match s.settings.channelOf r with
  | some c => ((s.channels.nth c).edges, onChannel c (fun ch => { ch with edges := 0 }) s)
  | none => (0, s)

/-- Capture of the emitted-cycle counter of a role's channel (R86). -/
def captureCycles (r : Role) (s : State) : Nat × State :=
  match s.settings.channelOf r with
  | some c => ((s.channels.nth c).emitted, onChannel c (fun ch => { ch with emitted := 0 }) s)
  | none => (0, s)

/-! The channel events -/

/-- The mode of channel `c` (R74). -/
def channelMode (s : State) (c : Fin 24) : ChannelMode := (s.settings.channels.nth c).mode

/-- The use that channel `ch` makes of its pin, by its mode: FREQ and DUTY drive it at the output level, COUNT reads it,
OFF leaves it undriven (R76). -/
def pinOf (mode : ChannelMode) (ch : ChannelRec) : PinUse :=
  match mode with
  | .freq | .duty => .driven ch.high
  | .count => .input
  | .off => .undriven

/-- The use of pin PCHc (R76). -/
def channelPin (s : State) (c : Fin 24) : PinUse := pinOf (channelMode s c) (s.channels.nth c)

/-- CYCLE END of channel `c` (R80, R81). -/
def execCycleEnd (c : Fin 24) (s : State) : Result := .next (onChannel c (endCycle (channelMode s c)) s)

/-- FREQ HALF CYCLE of channel `c`: the position reaches P (R80). -/
def execFreqHalfCycle (c : Fin 24) (s : State) : Result :=
  .next (if channelMode s c = .freq then onChannel c (lowerAt (·.p) fun x => 2 * x.p) s else s)

/-- DUTY HIGH END of channel `c`: the position reaches H (R81). -/
def execDutyHighEnd (c : Fin 24) (s : State) : Result :=
  .next (if channelMode s c = .duty then onChannel c (lowerAt (·.h) (·.p)) s else s)

/-- COUNT EDGE of channel `c`: counted while the pin is read as an input, in COUNT alone (R76, R85). -/
def execCountEdge (c : Fin 24) (s : State) : Result :=
  .next (if channelPin s c = .input then onChannel c (fun ch => { ch with edges := satInc max32 ch.edges }) s else s)

end Sys2Proof.Machine
end

