-- ==== Sys2Proof/Machine/Flags.lean ====
section
/-! DEFINITION. The conditions that the blocks form from one another's records: freshness, effective levels, the air
permissive, verdicts and flame conditions, limit conditions, protection, the cutback request (R6, R7, R10, R12, R20 to R24,
R107). -/

namespace Sys2Proof.Machine

/-! Points and inputs -/

/-- The value of a point: the force while one is present, else the underlying sample (Table 1-1). -/
def PointRec.value (p : PointRec) : Word := p.force.getD p.underlying

/-- A point is fresh: quality GOOD, or forced (R6). -/
def PointRec.fresh (p : PointRec) : Bool := p.quality == .good || p.force.isSome

/-- The value of point `p` when it is named and fresh. -/
def freshValue (s : State) (p : Option (Fin 96)) : Option Int :=
  match p with
  | some p => if (s.points.points.nth p).fresh then some (s.points.points.nth p).value.toInt else none
  | none => none

/-- The effective level of an input: the force data bit when the mask bit is set, else the debounced level (R10). -/
def InputRec.effective (x : InputRec) : Bool := if x.forceMask then x.forceData else x.level

/-- A limit condition after evaluation (R7): `high` for HH and H. -/
def limitNext (high active : Bool) (value limit deadband : Int) : Bool :=
  match high, active with
  | true, false => decide (limit ≤ value)
  | true, true => !decide (value < limit - deadband)
  | false, false => decide (value ≤ limit)
  | false, true => !decide (limit + deadband < value)

/-- Limits 0 and 1 are HH and H. -/
def highLimit (j : Fin 4) : Bool := decide (j.val < 2)

/-- The count of forces active (R16). -/
def forcesActive (s : State) : Nat :=
  s.points.points.count (·.force.isSome) + s.points.inputs.count (·.forceMask)

/-! Burner interlocks -/

/-- The settings of burner `n`. -/
def burnerCfg (s : State) (n : Fin 3) : BurnerCfg := s.settings.burners.nth n

/-- Burner `n` uses point `p` (R12). -/
def usesPoint (s : State) (p : Fin 96) (n : Fin 3) : Bool := (burnerCfg s n).airPoint == some p

/-- Burner `n` uses input `i` (R12). -/
def usesInput (s : State) (i : Fin 16) (n : Fin 3) : Bool := (burnerCfg s n).fanInput == some i

/-- The state of burner `n`. -/
def burnerState (s : State) (n : Fin 3) : BurnerState := (s.burners.nth n).state

/-- A point is protected: class INTERLOCK, or named by a burner (R12). -/
def pointProtected (s : State) (p : Fin 96) : Bool :=
  (s.settings.points.nth p).cls == .interlock || burnerList.any (usesPoint s p)

/-- An input is protected: named by a burner (R12). -/
def inputProtected (s : State) (i : Fin 16) : Bool := burnerList.any (usesInput s i)

/-- A force on a protected point or input is allowed: lock level 0, KEY ON, and every burner of `users` at rest (R12). -/
def forceAllowed (s : State) (users : Fin 3 → Bool) : Bool :=
  s.lock == 0 && s.points.key.on && burnerList.all fun n => !users n || (burnerState s n).atRest

/-- A point carries a force. -/
def pointForced (s : State) (p : Fin 96) : Bool := (s.points.points.nth p).force.isSome

/-- An input carries a force. -/
def inputForced (s : State) (i : Fin 16) : Bool := (s.points.inputs.nth i).forceMask

/-- Any point or input that burner `n` uses is forced (R16, R28, R39). -/
def interlockForced (s : State) (n : Fin 3) : Bool :=
  (burnerCfg s n).airPoint.any (pointForced s) || (burnerCfg s n).fanInput.any (inputForced s)

/-- The ID fan input of burner `n` is named and ON. -/
def fanRunning (s : State) (n : Fin 3) : Bool :=
  (burnerCfg s n).fanInput.any fun i => (s.points.inputs.nth i).effective

/-- The air permissive of burner `n` with its reason when FALSE (R24). -/
def airOf (s : State) (n : Fin 3) : AirState :=
  let cfg := burnerCfg s n
  match cfg.airPoint with
  | none => .lost
  | some p =>
    if fanRunning s n then
      match freshValue s (some p) with
      | some v => if cfg.airMin.toInt ≤ v then .permitted else .lost
      | none => .staleOnly
    else .lost

/-! Scanners and flame -/

/-- Scanner verdict of a window count (Table 2-3). -/
def verdictOf (t : TimingSet) (n : Nat) : Verdict :=
  if n < t.cmin then .dark else if n ≤ t.cmax then .flame else .fault

/-- Either scanner's last verdict is FLAME. -/
def anyFlame (b : BurnerRec) : Bool := b.scanA.verdict == .flame || b.scanB.verdict == .flame

/-- Both scanners' last verdicts are FLAME. -/
def bothFlame (b : BurnerRec) : Bool := b.scanA.verdict == .flame && b.scanB.verdict == .flame

/-- Proven: the consecutive-proven count equals the latched k (R22). -/
def proven (b : BurnerRec) : Bool := b.proven == b.latched.k

/-- The dark limit is reached, or both scanners are FAULT (R22). -/
def flameGone (b : BurnerRec) : Bool :=
  decide (b.darkLimit ≤ b.dark) || (b.scanA.verdict == .fault && b.scanB.verdict == .fault)

/-- Neither scanner is FLAME, one is and the other is not, or both: a window in disagreement (R23). -/
def disagreeing (b : BurnerRec) : Bool := (b.scanA.verdict == .flame) != (b.scanB.verdict == .flame)

/-! Cooler and kiln -/

/-- The cutback request (R107). -/
def cutbackOf (c : CoolerCtl) : Bool :=
  c.state == .pileUp || c.state == .tripped || 0 < c.grates.count (·.state == .stalled)

/-- The cooler runs: RUNNING or PILE-UP (R114). -/
def CoolerState.runs : CoolerState → Bool
  | .running | .pileUp => true
  | .standby | .tripped => false

/-- The owner of a role is running (Table 4-3). -/
def ownerRuns (s : State) (r : Role) : Bool :=
  match r with
  | .lineDrive m => (s.fuel.lines.nth m).actual.runs
  | .lineFeedback m => (s.fuel.lines.nth m).actual.runs
  | .grateDrive n => (s.cooler.grates.nth n).state == .running
  | .grateFeedback n => (s.cooler.grates.nth n).state == .running
  | .fan _ => s.cooler.state != .standby

end Sys2Proof.Machine
end

