-- ==== Sys2Proof/Machine/Store.lean ====
section
/-! DEFINITION. The store: its one arbiter, the verify of an operation, SAVE SETTINGS, SET LOCK and the completion
(R176 to R180). -/

namespace Sys2Proof.Machine

/-- The copy a report write takes: an invalid one, copy 0 first, else the one with the lower sequence number (R180). -/
def chooseCopy (copies : Tab 2 (Option ShiftRecord)) : Fin 2 :=
  match copies.nth 0, copies.nth 1 with
  | none, _ => 0
  | some _, none => 1
  | some x, some y => if x.seq ≤ y.seq then 0 else 1

/-- A SAVE starts: it captures the working settings, and the stored image is invalid until its verify (R178, R182). -/
def startSave (s : State) : State :=
  { s with store := { s.store with inFlight := some (.save s.settings) }, nv := { s.nv with image := none } }

/-- A lock write starts: the stored lock record is invalid until its verify (R178, R182). -/
def startLock (s : State) : State :=
  { s with store := { s.store with inFlight := some (.lock s.lock) }, nv := { s.nv with lockRecord := none } }

/-- A report write starts: its copy is chosen now and invalid until its verify (R180). -/
def startReport (x : ShiftRecord) (s : State) : State :=
  let c := chooseCopy s.nv.copies
  { s with store := { s.store with inFlight := some (.report x c) }
           nv := { s.nv with copies := s.nv.copies.put c none } }

/-- A settings-class operation starts. -/
def startSettings (op : SettingsOp) : State → State :=
  match op with
  | .save => startSave
  | .lock => startLock

/-- A taken settings-class operation: started when the store is IDLE, else pending (R178). -/
def handSettings (op : SettingsOp) (s : State) : State :=
  if s.store.inFlight.isNone then startSettings op s
  else { s with store := { s.store with pendingSettings := some op } }

/-- A closed report handed over: started when the store is IDLE, else pending in place of one already there (R178). -/
def handReport (x : ShiftRecord) (s : State) : State :=
  if s.store.inFlight.isNone then startReport x s
  else { s with store := { s.store with pendingReport := some x } }

/-- A settings-class operation is in flight or pending (R177, R178). -/
def settingsBusy (s : State) : Bool :=
  s.store.pendingSettings.isSome ||
    match s.store.inFlight with
    | some (.save _) => true
    | some (.lock _) => true
    | some (.report ..) => false
    | none => false

/-- The non-volatile storage after an operation whose verify succeeds (R179). -/
def writtenBy (op : StoreOp) (nv : Nonvolatile) : Nonvolatile :=
  match op with
  | .save cfg => { nv with image := some cfg }
  | .lock level => { nv with lockRecord := some level }
  | .report x c => { nv with copies := nv.copies.put c (some x) }

/-- The kind of an operation, the subject of its STORE notice (Table 11-2). -/
def StoreOp.kind : StoreOp → StoreKind
  | .save _ => .save
  | .lock _ => .lock
  | .report .. => .report

/-- The result of a completed operation is settled (R179). R179 does not order the alarms of a completion and its STORE notice;
the model takes alarm 99, then alarm 98 after a SAVE, then the STORE notice (the model's choice, assumption log 54). -/
def settle (op : StoreOp) (good : Bool) (s : State) : State :=
  let s :=
    if good then
      let s := clear 99 { s with nv := writtenBy op s.nv }
      if op.kind = .save then clear 98 s else s
    else raise 99 (setSticky (fun f => { f with storeFault := true }) s)
  post (.store op.kind good) .routine s

/-- The store takes its next operation: the pending settings-class one, else the pending report, else none (R178). -/
def nextOperation (s : State) : State :=
  let idle := { s with store := { s.store with inFlight := none } }
  match s.store.pendingSettings, s.store.pendingReport with
  | some op, _ => startSettings op { idle with store := { idle.store with pendingSettings := none } }
  | none, some x => startReport x { idle with store := { idle.store with pendingReport := none } }
  | none, none => idle

/-- STORE COMPLETE: the operation in flight completes with its verify good or not (R178, R179). Nothing happens when none
is in flight (assumption log 2). -/
def execStoreComplete (good : Bool) (s : State) : Result :=
  .next (match s.store.inFlight with
    | some op => nextOperation (settle op good s)
    | none => s)

/-- SAVE SETTINGS at the store (R178). -/
def saveSettings (s : State) : Answer :=
  if settingsBusy s then refuse .busy s else (handSettings .save s, .accepted, [])

/-- SAVE SETTINGS (R178). -/
def execSaveSettings (tag : Byte) (s : State) : Result := answer 0x52#8 tag saveSettings s

/-- A protection refusal: PROTECT-VIOLATION is set and alarm 101 is raised (R176 step 2, R177 step 2). -/
def lockedOut (s : State) : Answer :=
  (raise 101 (setSticky (fun f => { f with protectViolation := true }) s), .locked, [])

/-- SET LOCK at the store (R177). -/
def setLock (level : Byte) (s : State) : Answer :=
  match number? 4 level with
  | none => refuse .range s
  | some l =>
    if l < s.lock ∧ s.points.key.on = false then lockedOut s
    else if l = s.lock then ok (beBytes 1 l.val) s
    else if settingsBusy s then refuse .busy s
    else (handSettings .lock { s with lock := l }, .accepted, beBytes 1 l.val)

/-- SET LOCK (R177). -/
def execSetLock (tag level : Byte) (s : State) : Result := answer 0x53#8 tag (setLock level) s

end Sys2Proof.Machine
end

