-- ==== Sys2Proof/Machine/Shift.lean ====
section
/-! DEFINITION. The Shift Accumulator: feeding with carries, closing, the report ring, and the shift requests
(R154 to R165). -/

namespace Sys2Proof.Machine

/-! Feeding the open record (R156) -/

/-- A carry and the whole thousands it passes on. -/
def carryOver (carry amount : Nat) : Nat × Nat := ((carry + amount) / 1000, (carry + amount) % 1000)

/-- The open record and the carries changed. -/
def onAccount (f : ShiftRecord × Carries → ShiftRecord × Carries) (s : State) : State :=
  let x := f (s.rep.shift.openRec, s.rep.shift.carries)
  { s with rep := { s.rep with shift := { s.rep.shift with openRec := x.1, carries := x.2 } } }

/-- Grams of line `m` (R156). -/
def addGrams (m : Fin 6) (g : Nat) : State → State := onAccount fun (x, c) =>
  let t := carryOver (c.lines.nth m).grams g
  ({ x with lines := x.lines.upd m fun l => { l with kg := satAdd max32 l.kg t.1 } },
   { c with lines := c.lines.upd m fun l => { l with grams := t.2 } })

/-- Metered ms of line `m` (R156). -/
def addMeteredMs (m : Fin 6) (mt : Metering) (ms : Nat) : State → State := onAccount fun (x, c) =>
  match mt with
  | .weigh =>
    let t := carryOver (c.lines.nth m).weighMs ms
    ({ x with lines := x.lines.upd m fun l => { l with weighSeconds := satAdd max32 l.weighSeconds t.1 } },
     { c with lines := c.lines.upd m fun l => { l with weighMs := t.2 } })
  | .volumetric =>
    let t := carryOver (c.lines.nth m).volumetricMs ms
    ({ x with lines := x.lines.upd m fun l => { l with volumetricSeconds := satAdd max32 l.volumetricSeconds t.1 } },
     { c with lines := c.lines.upd m fun l => { l with volumetricMs := t.2 } })

/-- kJ of a line of burner `n`: to the burner's heat, the total heat and, for ALT-SOLID, the ALT-SOLID heat (R156). -/
def addHeat (n : Fin 3) (alt : Bool) (kj : Nat) : State → State := onAccount fun (x, c) =>
  let b := carryOver (c.burnerKJ.nth n) kj
  let t := carryOver c.totalKJ kj
  let a := carryOver c.altKJ (if alt then kj else 0)
  ({ x with burners := x.burners.upd n fun r => { r with heatMJ := satAdd max32 r.heatMJ b.1 }
            totalMJ := satAdd max32 x.totalMJ t.1, altMJ := satAdd max32 x.altMJ a.1 },
   { c with burnerKJ := c.burnerKJ.put n b.2, totalKJ := t.2, altKJ := a.2 })

/-- One trip of line `m` (R56). -/
def countTrip (m : Fin 6) (x : ShiftRecord) : ShiftRecord :=
  { x with lines := x.lines.upd m fun l => { l with trips := satInc 65535 l.trips } }

/-- One lockout of burner `n` (R38). -/
def countLockout (n : Fin 3) (x : ShiftRecord) : ShiftRecord :=
  { x with burners := x.burners.upd n fun b => { b with lockouts := satInc 65535 b.lockouts } }

/-- Strokes of grate `n` (R109). -/
def countStrokes (n : Fin 3) (k : Nat) (x : ShiftRecord) : ShiftRecord :=
  { x with strokes := x.strokes.upd n (satAdd max32 · k) }

/-- Pile-up seconds (R109). -/
def countPileUp (secs : Nat) (x : ShiftRecord) : ShiftRecord :=
  { x with pileUpSeconds := satAdd max32 x.pileUpSeconds secs }

/-- One cooler trip (R109). -/
def countCoolerTrip (x : ShiftRecord) : ShiftRecord := { x with coolerTrips := satInc 65535 x.coolerTrips }

/-! Closing (R157 to R159) -/

/-- Substitution rate: floor(ALT-SOLID heat MJ × 1,000 / total heat MJ), 0 when the total heat is 0 (R158 step 1). It is not
clamped to the range 0 to 1,000 of Table 9-1 (the model's choice, assumption log 46). -/
def substitutionRate (x : ShiftRecord) : Nat := if x.totalMJ = 0 then 0 else x.altMJ * 1000 / x.totalMJ

/-- The record as closed (R158 steps 1 and 2). -/
def closedRecord (clock : Nat) (cause : CloseCause) (x : ShiftRecord) : ShiftRecord :=
  { x with endTime := clock, cause := cause, substitution := substitutionRate x }

/-- The sequence number of the report in a slot; 0 in an EMPTY one. -/
def slotSeq (x : Slot) : Nat := (x.report.map (·.seq)).getD 0

/-- Of slots `i` and `j`, the one with the lower sequence number. -/
def lowerSeq (ring : Tab 8 Slot) (i j : Fin 8) : Fin 8 :=
  if slotSeq (ring.nth j) < slotSeq (ring.nth i) then j else i

/-- The slot a close takes: the lowest-numbered EMPTY one, else the lowest sequence number of the FULL ones with hold
count 0, else none (R158 step 3). -/
def chooseSlot (ring : Tab 8 Slot) : Option (Fin 8) :=
  match ring.select (fun x => x.report.isNone), ring.select (fun x => x.report.isSome && x.hold == 0) with
  | i :: _, _ => some i
  | [], i :: rest => some (rest.foldl (lowerSeq ring) i)
  | [], [] => none

/-- A close into slot `i` (R158). -/
def performClose (cause : CloseCause) (i : Fin 8) (s : State) : State :=
  let x := closedRecord s.clock cause s.rep.shift.openRec
  let s := { s with rep := { s.rep with shift := { s.rep.shift with
      ring := s.rep.shift.ring.put i { report := some x, hold := 0 }
      openRec := ShiftRecord.fresh (x.seq + 1) s.clock } } }
  handReport x (post (.shift x.seq cause) .routine s)

/-- The close-pending field set. -/
def setClosePending (c : CloseCause) (s : State) : State :=
  { s with rep := { s.rep with shift := { s.rep.shift with closePending := c } } }

/-- A due close: nothing while one is pending or at the last sequence number; performed when a slot can be chosen, else
deferred with alarm 102 (R157, R159). -/
def closeDue (cause : CloseCause) (s : State) : State :=
  if s.rep.shift.closePending ≠ .none ∨ s.rep.shift.openRec.seq = max32 then s
  else match chooseSlot s.rep.shift.ring with
    | some i => performClose cause i s
    | none => raise 102 (setClosePending cause s)

/-- A deferred close at a release that frees a slot (R159). -/
def performPending (s : State) : State :=
  match chooseSlot s.rep.shift.ring with
  | some i =>
    let s := feed (fun x => { x with deferredClose := true }) s
    clear 102 (setClosePending .none (performClose s.rep.shift.closePending i s))
  | none => s

/-- The seconds of a mode (R122). -/
def modeIndex (md : KilnMode) : Fin 5 :=
  match md with
  | .off => 0 | .heatUp => 1 | .production => 2 | .upset => 3 | .shutdown => 4

/-- One counted second of the open shift: elapsed, the mode held, the FIRING burners (R155 steps 1 to 3). -/
def countSecond (md : KilnMode) (bs : Tab 3 BurnerRec) (x : ShiftRecord) : ShiftRecord :=
  { x with
    elapsed := satInc max32 x.elapsed
    modeSeconds := x.modeSeconds.upd (modeIndex md) (satInc max32)
    burners := Tab.make fun n =>
      if (bs.nth n).state = .firing then
        { x.burners.nth n with firingSeconds := satInc max32 (x.burners.nth n).firingSeconds }
      else x.burners.nth n }

/-- A close by timer is due (R157). -/
def timerCloseDue (s : State) : Bool :=
  s.settings.general.shiftLength ≠ 0 && decide (s.settings.general.shiftLength * 3600 ≤ s.rep.shift.openRec.elapsed)

/-- SHIFT TIMER EXPIRY (R155). -/
def execShiftTimerExpiry (s : State) : Result :=
  let s := feed (countSecond s.kiln.mode s.burners) s
  let s := { s with rep := { s.rep with shift := { s.rep.shift with timer := Config.sec 1 } } }
  .next (if timerCloseDue s then closeDue .timer s else s)

/-! Report bytes (R165, Table 9-2) -/

/-- The flags byte. -/
def shiftFlags (x : ShiftRecord) : Nat := bitsOf [x.startedAfterReset, x.clockSetDuring, x.deferredClose]

/-- Four bytes for each of several counts. -/
def countBytes (ns : List Nat) : List Byte := ns.flatMap (beBytes 4)

/-- One part of a report (Table 9-2). -/
def reportPart (part : Fin 4) (x : ShiftRecord) : List Byte :=
  match part with
  | 0 => countBytes [x.seq, x.startTime, x.endTime, x.elapsed] ++ beBytes 1 (shiftFlags x) ++
      beBytes 1 x.cause.code ++ beBytes 2 x.substitution ++ countBytes x.modeSeconds.toList
  | 1 => countBytes x.raises.toList ++ countBytes [x.floodSeconds, x.noticesLost] ++ countBytes x.strokes.toList ++
      countBytes [x.pileUpSeconds] ++ beBytes 2 x.coolerTrips
  | 2 => x.burners.toList.flatMap (fun b => countBytes [b.heatMJ, b.firingSeconds] ++ beBytes 2 b.lockouts) ++
      countBytes [x.totalMJ, x.altMJ]
  | 3 => x.lines.toList.flatMap fun l => countBytes [l.kg, l.weighSeconds, l.volumetricSeconds] ++ beBytes 2 l.trips

/-! Shift requests -/

/-- The FULL slot that holds a report, if any (R160). -/
def findSlot (seq : Nat) (ring : Tab 8 Slot) : Option (Fin 8) :=
  (ring.select fun x => (x.report.map (·.seq)) == some seq).head?

/-- The stored copy that holds a report, if any (R162). -/
def findCopy (seq : Nat) (copies : Tab 2 (Option ShiftRecord)) : Option ShiftRecord :=
  (copies.toList.filterMap id).find? (·.seq == seq)

/-- The hold count of slot `i` set. -/
def setHold (i : Fin 8) (h : Nat) (s : State) : State :=
  { s with rep := { s.rep with shift := { s.rep.shift with
      ring := s.rep.shift.ring.upd i fun x => { x with hold := h } } } }

/-- CLOSE SHIFT at the Shift Accumulator (R157). -/
def closeShift (s : State) : Answer :=
  let sh := s.rep.shift
  if sh.closePending ≠ .none then (s, .accepted, [])
  else if sh.openRec.seq = max32 then refuse .limit s
  else if (chooseSlot sh.ring).isSome then ok (beBytes 4 sh.openRec.seq) (closeDue .request s)
  else (closeDue .request s, .accepted, [])

/-- CLOSE SHIFT (R157). -/
def execCloseShift (tag : Byte) (s : State) : Result := answer 0x48#8 tag closeShift s

/-- HOLD REPORT at the Shift Accumulator (R160). -/
def holdReport (seq : Word) (s : State) : Answer :=
  match findSlot seq.toNat s.rep.shift.ring with
  | none => refuse .notFound s
  | some i =>
    let h := (s.rep.shift.ring.nth i).hold
    if h = 15 then refuse .limit s else ok (beBytes 1 (h + 1)) (setHold i (h + 1) s)

/-- HOLD REPORT (R160). -/
def execHoldReport (tag : Byte) (seq : Word) (s : State) : Result := answer 0x49#8 tag (holdReport seq) s

/-- RELEASE REPORT at the Shift Accumulator (R161). -/
def releaseReport (seq : Word) (s : State) : Answer :=
  match findSlot seq.toNat s.rep.shift.ring with
  | none => refuse .notFound s
  | some i =>
    let h := (s.rep.shift.ring.nth i).hold
    if h = 0 then refuse .state s
    else
      let t := setHold i (h - 1) s
      if h = 1 ∧ s.rep.shift.closePending ≠ .none then
        ok (beBytes 1 0 ++ beBytes 4 s.rep.shift.openRec.seq) (performPending t)
      else ok (beBytes 1 (h - 1) ++ beBytes 4 0) t

/-- RELEASE REPORT (R161). -/
def execReleaseReport (tag : Byte) (seq : Word) (s : State) : Result := answer 0x4A#8 tag (releaseReport seq) s

/-- Where READ REPORT finds a report, RING coded 0 and STORED coded 1, and the report (R162). -/
def sourceOf (seq : Nat) (s : State) : Option (Nat × ShiftRecord) :=
  match (findSlot seq s.rep.shift.ring).bind fun i => (s.rep.shift.ring.nth i).report with
  | some x => some (0, x)
  | none => (findCopy seq s.nv.copies).map fun x => (1, x)

/-- READ REPORT at the Shift Accumulator (R162). -/
def readReport (seq : Word) (part : Byte) (s : State) : Answer :=
  match number? 4 part with
  | none => refuse .range s
  | some p =>
    match sourceOf seq.toNat s with
    | none => refuse .notFound s
    | some (source, x) => ok (wordBytes seq ++ beBytes 1 p.val ++ beBytes 1 source ++ reportPart p x) s

/-- READ REPORT (R162). -/
def execReadReport (tag : Byte) (seq : Word) (part : Byte) (s : State) : Result :=
  answer 0x4B#8 tag (readReport seq part) s

/-- The bytes of a slot in the ring summary: state 0 EMPTY or 1 FULL, sequence number, hold count; all bits set and 0 in
an EMPTY slot (R163, assumption log 12). -/
def slotBytes (x : Slot) : List Byte :=
  beBytes 1 (yesNo x.report.isSome) ++ optBytes 4 (x.report.map (·.seq)) ++
    beBytes 1 (if x.report.isSome then x.hold else 0)

/-- READ OPEN SHIFT at the Shift Accumulator (R163). -/
def readOpenShift (s : State) : Answer :=
  let x := closedRecord s.clock .none s.rep.shift.openRec
  ok (reportPart 0 x ++ reportPart 1 x ++ reportPart 2 x ++ reportPart 3 x ++
    beBytes 1 s.rep.shift.closePending.code ++ s.rep.shift.ring.toList.flatMap slotBytes) s

/-- READ OPEN SHIFT (R163). -/
def execReadOpenShift (tag : Byte) (s : State) : Result := answer 0x4C#8 tag readOpenShift s

end Sys2Proof.Machine
end

