-- ==== Sys2Proof/Machine/Lines.lean ====
section
/-! DEFINITION. Fuel lines: drive, availability, actual state, ignition line, feedback check, and the line requests
(R47 to R56, R68, R69, R72). -/

namespace Sys2Proof.Machine

/-! Records -/

/-- The record of line `m`. -/
def lineRec (s : State) (m : Fin 6) : LineRec := s.fuel.lines.nth m

/-- The settings of line `m`. -/
def lineCfg (s : State) (m : Fin 6) : LineCfg := s.settings.lines.nth m

/-- The CV and the Kf of line `m` in force (R44). -/
def lineFactors (s : State) (m : Fin 6) : LineFactors := s.fuel.factors.nth m

/-- Line `m` changed. -/
def onLine (m : Fin 6) (f : LineRec → LineRec) (s : State) : State :=
  { s with fuel := { s.fuel with lines := s.fuel.lines.upd m f } }

/-- The demand record of burner `n` changed. -/
def onDemand (n : Fin 3) (f : DemandRec → DemandRec) (s : State) : State :=
  { s with fuel := { s.fuel with demands := s.fuel.demands.upd n f } }

/-- Line `m` is of kind ALT-SOLID. -/
def isAlt (s : State) (m : Fin 6) : Bool := (lineCfg s m).kind == .altSolid

/-- Line `m` is bound to burner `n`. -/
def boundTo (s : State) (n : Fin 3) (m : Fin 6) : Bool := (lineCfg s m).burner == n

/-! Drive (R55) -/

/-- The drive frequency of a rate: floor(c × Kf / 1000) cHz, at least 1 for c > 0, and 0 for a halt (R55). -/
def driveFreq (c kf : Nat) : Nat := if c = 0 then 0 else max 1 (c * kf / 1000)

/-- Hand the drive frequency of the line's commanded rate, by the Kf in force, keep the marker and let DRIVE LIMIT follow it
(R44, R55). -/
def handRate (m : Fin 6) (s : State) : State :=
  let s := onRole (.lineDrive m) (fun cfg => handFreq cfg (driveFreq (lineRec s m).rate (lineFactors s m).kf)) s
  let marker := markerOf (.lineDrive m) s
  follow (lineAlarm m 3) (marker != .none) (onLine m (fun x => { x with driveLimit := marker }) s)

/-- Set the commanded rate of a running line and hand its frequency (R55). -/
def setRate (m : Fin 6) (c : Nat) (s : State) : State := handRate m (onLine m (fun x => { x with rate := c }) s)

/-- Stop line `m`: commanded rate 0, drive halted, window and fault counter stopped, WEIGH STALE cleared (R50, R55, R68,
R70). The order of its alarms is that of assumption log 16. -/
def stopLine (m : Fin 6) (s : State) : State :=
  clear (lineAlarm m 1) (setRate m 0 (onLine m (fun x => { x with window := none, faults := 0 }) s))

/-! Feedback window (R68) -/

/-- Start the feedback window of a line in AUTO or MANUAL, when it has a feedback channel (R68). -/
def startWindow (m : Fin 6) (s : State) : State :=
  if assigned s (.lineFeedback m) then
    let s := (captureCycles (.lineDrive m) (captureEdges (.lineFeedback m) s).2).2
    onLine m (fun x => { x with window := some (Config.sec (lineCfg s m).window), faults := 0 }) s
  else s

/-! Actual state (R50 to R53) -/

/-- The class of a LINE notice (R56). -/
def lineClass (st : LineState) : NoticeClass := if st = .tripped then .urgent else .routine

/-- The LINE notice of a change of actual state, with the trip it may count (R56). -/
def postLine (m : Fin 6) (st : LineState) (s : State) : State :=
  post (.line m st) (lineClass st) (if st = .tripped then feed (countTrip m) s else s)

/-- The line that runs as the ignition line of its burner (R52): started at the MAIN-TRIAL entry and still running. -/
def ignitionRuns (s : State) (m : Fin 6) : Bool :=
  s.fuel.ignition.nth (lineCfg s m).burner == some m && (lineRec s m).actual.runs

/-- The state a line that may run takes: STARTING until its conversion, then its requested state; STARTING when it does
not run yet (R48, R51). -/
def runningState (x : LineRec) : LineState :=
  if x.actual.runs && x.actual != .starting then x.requested.state else .starting

/-- The state the ignition line takes by its burner's state: kept in MAIN-TRIAL, its requested state at FIRING, OFF
otherwise (R52, R54). -/
def ignitionState (b : BurnerState) (x : LineRec) : LineState :=
  match b with
  | .mainTrial => x.actual
  | .firing => x.requested.state
  | .lockedOut | .idle | .purge | .pilotTrial | .stopping => .off

/-- Table 3-5 for line `m`, given whether the conditions of R53 hold for it where its kind asks for them. -/
def stateGiven (altOk : Bool) (s : State) (m : Fin 6) : LineState :=
  let x := lineRec s m
  let cfg := lineCfg s m
  let b := burnerState s cfg.burner
  if x.actual = .tripped then .tripped
  else if !cfg.configured then .off
  else if ignitionRuns s m then ignitionState b x
  else if x.requested = .off then .off
  else if b ≠ .firing then .off
  else if assigned s (.lineDrive m) && altOk then runningState x
  else .waiting

/-- Line `m` is a support line of burner `n` once the event's changes are done: not ALT-SOLID, and in AUTO or MANUAL by
Table 3-5 (R53, assumption log 17). -/
def supports (s : State) (n : Fin 3) (m : Fin 6) : Bool :=
  boundTo s n m && !isAlt s m && (stateGiven true s m == .auto || stateGiven true s m == .manual)

/-- The support condition of an ALT-SOLID line of burner `n` (R53). -/
def supported (s : State) (n : Fin 3) : Bool := lineList.any (supports s n)

/-- The kiln inlet point of burner `n`, when named, is fresh and at or above its minimum (R53). -/
def inletOk (s : State) (n : Fin 3) : Bool :=
  let d := s.settings.demand.nth n
  d.inletPoint.isNone || (freshValue s d.inletPoint).any fun v => decide (d.inletMin.toInt ≤ v)

/-- The conditions of R53 other than support. -/
def altAllowed (s : State) (n : Fin 3) : Bool := s.kiln.mode == .production && inletOk s n

/-- The actual state that Table 3-5 gives line `m` (R50, R53). -/
def lineTarget (s : State) (m : Fin 6) : LineState :=
  let n := (lineCfg s m).burner
  stateGiven (!isAlt s m || (altAllowed s n && supported s n)) s m

/-- What the entry of line `m` into state `st` from `old` does before its notice: a stop, a start at Rmin, or the start of its
window (R50 to R52, R55, R68). Its assigned heat and target rate stay as they are: a line that leaves AUTO keeps them until
its burner's next split (the model's choice, assumption log 39). -/
def enterChange (m : Fin 6) (old st : LineState) (s : State) : State :=
  match st with
  | .starting => setRate m (lineCfg s m).rmin s
  | .auto | .manual => if old = .auto ∨ old = .manual then s else startWindow m s
  | .off | .waiting | .tripped => if old.runs then stopLine m s else s

/-- Line `m` takes an actual state, then its LINE notice (R50 to R52, R56). -/
def enterLine (m : Fin 6) (st : LineState) (s : State) : State :=
  let old := (lineRec s m).actual
  if old = st then s else postLine m st (enterChange m old st (onLine m (fun x => { x with actual := st }) s))

/-- ALT SUPPORT LOST of line `m`: raised while it waits and support is the one condition that fails, cleared when support
returns or the line leaves WAITING (R53, assumption log 18). -/
def altSupportAlarm (m : Fin 6) (s : State) : State :=
  let n := (lineCfg s m).burner
  if isAlt s m && (lineRec s m).actual == .waiting && !supported s n then
    if altAllowed s n && assigned s (.lineDrive m) then raise (lineAlarm m 2) s else s
  else clear (lineAlarm m 2) s

/-- Re-form the availability and the actual state of line `m` (R50). ALT SUPPORT LOST follows the LINE notice of the same
change: R53 does not order the two (the model's choice, assumption log 16). -/
def reformLine (m : Fin 6) (s : State) : State := altSupportAlarm m (enterLine m (lineTarget s m) s)

/-- Re-form the lines that `p` names, in ascending line number, each after its own part `tell` of the same event: so lines
change and post in ascending line number whatever line brought the event about (R50, R56). -/
def reformTelling (tell : Fin 6 → State → State) (p : State → Fin 6 → Bool) (s : State) : State :=
  lineList.foldl (fun s m => if p (tell m s) m then reformLine m (tell m s) else tell m s) s

/-- Re-form the lines that `p` names, in ascending line number (R50, R56). -/
def reformLines : (State → Fin 6 → Bool) → State → State := reformTelling fun _ => id

/-- Re-form every line of burner `n`. -/
def reformBurner (n : Fin 3) : State → State := reformLines fun s => boundTo s n

/-- Re-form every line. -/
def reformAll : State → State := reformLines fun _ _ => true

/-- Re-form line `m` and the other lines of its burner, in ascending line number (R50, R56). -/
def reformFrom (m : Fin 6) (s : State) : State := reformBurner (lineCfg s m).burner s

/-- Line `m` has entered state `st`: its LINE notice, and the re-forming of its burner's lines, in ascending line number (R50,
R56). -/
def tellFrom (m : Fin 6) (st : LineState) (s : State) : State :=
  let n := (lineCfg s m).burner
  reformTelling (fun k => if k = m then postLine m st else id) (fun s => boundTo s n) s

/-! The burner's part (R52, R54) -/

/-- The line that burner `n` starts at its MAIN-TRIAL entry: its ignition line, when configured, bound to the burner, not
TRIPPED and with a drive channel (R52). -/
def ignitionLine (s : State) (n : Fin 3) : Option (Fin 6) :=
  (burnerCfg s n).ignitionLine.filter fun m =>
    (lineCfg s m).configured && boundTo s n m && (lineRec s m).actual != .tripped && assigned s (.lineDrive m)

/-- The entry of burner `n` into MAIN-TRIAL: its ignition line enters STARTING at the light-off rate (R52). -/
def startIgnition (n : Fin 3) (s : State) : State :=
  let lit := ignitionLine s n
  let s := { s with fuel := { s.fuel with ignition := s.fuel.ignition.put n lit } }
  match lit with
  | some m =>
    postLine m .starting (setRate m (lineCfg s m).lightOff (onLine m (fun x => { x with actual := .starting }) s))
  | none => s

/-- Burner `n` has no ignition line running. -/
def endIgnition (n : Fin 3) (s : State) : State :=
  { s with fuel := { s.fuel with ignition := s.fuel.ignition.put n none } }

/-- The entry of burner `n` into FIRING: the ignition line passes to its requested state and every line is re-formed
(R50 to R52). -/
def linesFire (n : Fin 3) (s : State) : State := endIgnition n (reformBurner n s)

/-- Burner `n` leaves FIRING, or MAIN-TRIAL for a state other than FIRING: its lines go OFF, shortfall and overfire become
0 and their alarms clear (R54). R54 does not order the lines' changes and the clears; the model takes the lines first,
then alarms +10, +11 and, for burner 0, 86 (the model's choice, assumption log 41). -/
def linesLeave (n : Fin 3) (s : State) : State :=
  let s := reformBurner n (endIgnition n s)
  let s := onDemand n (fun d => { d with shortfall := 0, overfire := 0, shortCount := 0 }) s
  let s := clear (burnerAlarm n 11) (clear (burnerAlarm n 10) s)
  if n = 0 then clear 86 s else s

/-! Feedback check (R69) -/

/-- A window of `f` pulses against `expected` is short (R69). -/
def shortWindow (f expected tolerance : Nat) : Bool :=
  decide (10 ≤ expected) && decide (f * 1000 < expected * (1000 - tolerance))

/-- Line `m` no longer runs as the ignition line of its burner. -/
def dropIgnition (m : Fin 6) (s : State) : State :=
  let n := (lineCfg s m).burner
  if s.fuel.ignition.nth n = some m then endIgnition n s else s

/-- Line `m` enters TRIPPED, and is no ignition line from then on (R52, R69). Its stop and FEED FAULT come before the LINE
notices of the event (the model's choice, assumption log 51). -/
def tripLine (m : Fin 6) (s : State) : State :=
  let s := stopLine m (onLine m (fun x => { x with actual := .tripped }) (dropIgnition m s))
  tellFrom m .tripped (raise (lineAlarm m 0) s)

/-- The evaluation of a feedback window of line `m` (R69). The stored expected count stops at the largest value of its
field (assumption log 30). -/
def judgeWindow (m : Fin 6) (s : State) : State :=
  let cfg := lineCfg s m
  let cf := captureEdges (.lineFeedback m) s
  let ce := captureCycles (.lineDrive m) cf.2
  let expected := ce.1 * cfg.ratio / 1000
  let faults := if shortWindow cf.1 expected cfg.tolerance then satInc 10 (lineRec s m).faults else 0
  let s := onLine m (fun x => { x with lastF := cf.1, lastExpected := min max32 expected, faults := faults }) ce.2
  if cfg.faultLimit ≤ faults then tripLine m s
  else onLine m (fun x => { x with window := some (Config.sec cfg.window) }) s

/-- FEEDBACK WINDOW EXPIRY of line `m`; nothing when the timer is stopped (R68, R69). -/
def execFeedbackWindowExpiry (m : Fin 6) (s : State) : Result :=
  .next (if (lineRec s m).window.isSome then judgeWindow m s else s)

/-! Requests (R47 to R49) -/

/-- The requested state of line `m` set. -/
def setRequest (m : Fin 6) (r : LineRequest) : State → State := onLine m fun x => { x with requested := r }

/-- LINE OFF at the Fuel Line Controller (R47). -/
def lineOff (line : Byte) (s : State) : Answer :=
  match number? 6 line with
  | none => refuse .range s
  | some m => ok [] (if (lineCfg s m).configured then reformFrom m (setRequest m .off s) else s)

/-- LINE OFF (R47). -/
def execLineOff (tag line : Byte) (s : State) : Result := answer 0x28#8 tag (lineOff line) s

/-- LINE AUTO and LINE MANUAL are refused STATE on this line (R48). -/
def lineRefuses (s : State) (m : Fin 6) : Bool := !(lineCfg s m).configured || (lineRec s m).actual == .tripped

/-- LINE AUTO at the Fuel Line Controller (R48). -/
def lineAuto (line : Byte) (s : State) : Answer :=
  match number? 6 line with
  | none => refuse .range s
  | some m => if lineRefuses s m then refuse .state s else ok [] (reformFrom m (setRequest m .auto s))

/-- LINE AUTO (R48). -/
def execLineAuto (tag line : Byte) (s : State) : Result := answer 0x29#8 tag (lineAuto line) s

/-- LINE MANUAL at the Fuel Line Controller (R48). -/
def lineManual (line : Byte) (rate : Half) (s : State) : Answer :=
  match number? 6 line with
  | none => refuse .range s
  | some m =>
    if lineRefuses s m then refuse .state s
    else
      let taken := clamp rate.toNat (lineCfg s m).rmin (lineCfg s m).rmax
      ok (beBytes 1 (yesNo (taken != rate.toNat)) ++ beBytes 2 taken)
        (reformFrom m (setRequest m .manual (onLine m (fun x => { x with manualRate := taken }) s)))

/-- LINE MANUAL (R48). -/
def execLineManual (tag line : Byte) (rate : Half) (s : State) : Result := answer 0x2A#8 tag (lineManual line rate) s

/-- A TRIPPED line reset: OFF and requested OFF, FEED FAULT cleared, then the notice and the burner's lines re-formed (R49,
R50, R56). FEED FAULT clears before the LINE notices of the event (the model's choice, assumption log 51). -/
def untripLine (m : Fin 6) (s : State) : State :=
  tellFrom m .off (clear (lineAlarm m 0) (onLine m (fun x => { x with actual := .off, requested := .off }) s))

/-- RESET LINE at the Fuel Line Controller (R49). -/
def resetLine (line : Byte) (s : State) : Answer :=
  match number? 6 line with
  | none => refuse .range s
  | some m => if (lineRec s m).actual = .tripped then ok [] (untripLine m s) else refuse .state s

/-- RESET LINE (R49). -/
def execResetLine (tag line : Byte) (s : State) : Result := answer 0x2B#8 tag (resetLine line) s

/-- One line record of the READ LINES reply (R72, Table 10-6); the unused bits of channels are 0 (assumption log 56). -/
def lineBytes (s : State) (m : Fin 6) : List Byte :=
  let x := lineRec s m
  let cfg := lineCfg s m
  beBytes 1 (yesNo cfg.configured) ++ beBytes 1 cfg.burner.val ++ beBytes 1 cfg.kind.code ++
    beBytes 1 x.requested.code ++ beBytes 1 x.actual.code ++ beBytes 2 x.rate ++ beBytes 2 x.target ++
    beBytes 2 x.manualRate ++ beBytes 4 x.assigned ++ beBytes 1 x.faults ++ beBytes 4 x.lastF ++
    beBytes 4 x.lastExpected ++ beBytes 1 (yesNo x.window.isSome) ++ beBytes 1 x.metering.code ++
    beBytes 1 x.driveLimit.code ++ beBytes 1 (bitsOf [assigned s (.lineDrive m), assigned s (.lineFeedback m)])

/-- READ LINES at the Fuel Line Controller (R72). -/
def readLines (s : State) : Answer := ok (lineList.flatMap (lineBytes s)) s

/-- READ LINES (R72). -/
def execReadLines (tag : Byte) (s : State) : Result := answer 0x2C#8 tag readLines s

end Sys2Proof.Machine
end

