-- ==== Sys2Proof/Machine/Split.lean ====
section
/-! DEFINITION. The heat split as arithmetic on the AUTO lines of one burner: stages S1 to S5 (R63 to R66). -/

namespace Sys2Proof.Machine

/-- Heat of a rate: floor(c × CV / 3600) kW (R62, R63). -/
def heatOf (rate cv : Nat) : Nat := rate * cv / 3600

/-- One AUTO line in the split: its number, whether it is ALT-SOLID, its share, heat limits and assigned heat. -/
structure Alloc where
  line : Fin 6
  alt : Bool
  share : Nat
  hmin : Nat
  hmax : Nat
  a : Nat
  deriving DecidableEq, Repr

/-- The sum of assigned heat. -/
def heatSum (xs : List Alloc) : Nat := (xs.map (·.a)).sum

/-- The ALT sum: assigned heat of the ALT-SOLID lines (R63). -/
def altSum (xs : List Alloc) : Nat := heatSum (xs.filter (·.alt))

/-- Stages S1 and S2: share of `d`, clamped to the heat limits (R63). -/
def shareStage (d : Nat) (xs : List Alloc) : List Alloc :=
  xs.map fun x => { x with a := clamp (d * x.share / 1000) x.hmin x.hmax }

/-- Take `excess` back from the lines that `p` names, one at a time in the order given, each by the smaller of the
remaining excess and a − Hmin (R64, R65). -/
def takeBack (p : Alloc → Bool) : Nat → List Alloc → List Alloc
  | _, [] => []
  | excess, x :: xs =>
    let g := if p x then min excess (x.a - x.hmin) else 0
    { x with a := x.a - g } :: takeBack p (excess - g) xs

/-- Offer `rest` to the lines in the order given, each taking the smaller of the rest and Hmax − a, and an ALT-SOLID line
no more than `cap` less the ALT sum `alt` at its turn (R65). -/
def giveOut (cap : Nat) : Nat → Nat → List Alloc → List Alloc
  | _, _, [] => []
  | rest, alt, x :: xs =>
    let room := min rest (x.hmax - x.a)
    let g := if x.alt then min room (cap - alt) else room
    { x with a := x.a + g } :: giveOut cap (rest - g) (if x.alt then alt + g else alt) xs

/-- Stage S3: the ALT-SOLID lines lowered under the cap, in reverse backup order (R64). -/
def capStage (cap : Nat) (xs : List Alloc) : List Alloc :=
  (takeBack (·.alt) (altSum xs - cap) xs.reverse).reverse

/-- Stage S4: redistribution of the net, in backup order when above 0, in reverse backup order when below (R65). -/
def redistribute (d cap : Nat) (xs : List Alloc) : List Alloc :=
  if heatSum xs ≤ d then giveOut cap (d - heatSum xs) (altSum xs) xs
  else (takeBack (fun _ => true) (heatSum xs - d) xs.reverse).reverse

/-- The substitution cap of a split (R63). -/
def splitCap (d perMille : Nat) : Nat := d * perMille / 1000

/-- Stages S1 to S4 over the AUTO lines in backup order (R63 to R65). -/
def heatSplit (d perMille : Nat) (xs : List Alloc) : List Alloc :=
  redistribute d (splitCap d perMille) (capStage (splitCap d perMille) (shareStage d xs))

/-- Shortfall: max(0, D − sum a) (R66). -/
def shortfallOf (d : Nat) (xs : List Alloc) : Nat := d - heatSum xs

/-- Overfire: max(0, sum a − D) (R66). -/
def overfireOf (d : Nat) (xs : List Alloc) : Nat := heatSum xs - d

/-- One step of a ramp: from `c` toward `t` by at most `r` (R59, R67). -/
def rampTo (c t r : Nat) : Nat := if c ≤ t then min t (c + r) else max t (c - r)

end Sys2Proof.Machine
end

