-- ==== Sys2Proof/Machine/Fuel.lean ====
section
/-! DEFINITION. The control period of the Fuel Line Controller: integration, effective demand, heat split, rates, SYNC, and
SET DEMAND (R45, R57 to R67, R70, R71). -/

namespace Sys2Proof.Machine

/-! Integration (R70, R71) -/

/-- The rate a line integrates with, and its metering: the weigh point's value clamped to [0, 65,535] when named and
fresh, else the commanded rate (R70). -/
def meteredRate (s : State) (m : Fin 6) : Nat × Metering :=
  match freshValue s (lineCfg s m).weighPoint with
  | some v => ((clampInt v 0 65535).toNat, .weigh)
  | none => ((lineRec s m).rate, .volumetric)

/-- WEIGH STALE of line `m` at an integration: cleared on a fresh weigh point, raised on a named one that is not fresh,
left alone when none is named (R70). -/
def weighAlarm (m : Fin 6) (mt : Metering) (s : State) : State :=
  match mt with
  | .weigh => clear (lineAlarm m 1) s
  | .volumetric => if (lineCfg s m).weighPoint.isSome then raise (lineAlarm m 1) s else s

/-- The integration of line `m` over `ms`, by the CV in force (R44, R70, R71). -/
def integrateLine (ms : Nat) (m : Fin 6) (s : State) : State :=
  let x := lineRec s m
  let cfg := lineCfg s m
  if x.rate = 0 then s
  else
    let rate := meteredRate s m
    let mass := rate.1 * ms + x.massRem
    let grams := mass / 3600
    let heat := grams * (lineFactors s m).cv + x.heatRem
    let kj := heat / 1000
    let s := onLine m (fun x => { x with metering := rate.2, massRem := mass % 3600, heatRem := heat % 1000 }) s
    let s := weighAlarm m rate.2 s
    addHeat cfg.burner (isAlt s m) kj (addMeteredMs m rate.2 ms (addGrams m grams s))

/-- Step 1 of a period processing (R57), in ascending line number (the model's choice, assumption log 42). -/
def integrateAll (ms : Nat) (s : State) : State := lineList.foldl (fun s m => integrateLine ms m s) s

/-! Effective demand (R59 to R62) -/

/-- Stage E1: the target after the silence fallback (R59). -/
def fallbackTarget (s : State) (n : Fin 3) : Nat :=
  let t := (s.fuel.demands.nth n).target
  let cfg := s.settings.demand.nth n
  if s.link.state = .silent ∧ s.settings.general.fallback = .ramp then
    rampTo t (min cfg.fallbackDemand cfg.maxHeat) cfg.fallbackRamp
  else t

/-- The trim of a secondary air temperature (R60). -/
def trimOf (cfg : TrimCfg) (tsa : Int) : Int := clampInt ((tsa - cfg.tref) * cfg.ktrim) (-cfg.trimMax) cfg.trimMax

/-- Stage E2: the trim of burner 0, and SECONDARY AIR STALE (R60). -/
def stageTrim (n : Fin 3) (s : State) : State :=
  if n = 0 then
    let cfg := s.settings.trim
    match cfg.airPoint, freshValue s cfg.airPoint with
    | some _, some tsa => clear 86 (onDemand 0 (fun d => { d with trim := trimOf cfg tsa }) s)
    | some _, none => raise 86 s
    | none, _ => onDemand 0 (fun d => { d with trim := 0 }) s
  else s

/-- D1: max(0, T − trim) for burner 0, T for the others (R60). -/
def trimmedDemand (s : State) (n : Fin 3) : Nat :=
  let d := s.fuel.demands.nth n
  if n = 0 then ((d.target : Int) - d.trim).toNat else d.target

/-- Stage E3: D2 under the HEAT-UP cap and the cutback (R61). -/
def cappedDemand (s : State) (n : Fin 3) : Nat :=
  let d1 := trimmedDemand s n
  let d2 := if n = 0 ∧ s.kiln.mode = .heatUp then min d1 s.settings.trim.heatUpCap else d1
  if s.cooler.cutback then min d2 ((s.fuel.demands.nth n).target * s.settings.fuel.cutback / 1000) else d2

/-- Line `m` stands in state `st` for burner `n`. -/
def stands (s : State) (n : Fin 3) (st : LineState) (m : Fin 6) : Bool := boundTo s n m && (lineRec s m).actual == st

/-- Stage E4, first part: each MANUAL line of the burner takes its manual rate (R62), in ascending line number (the model's
choice, assumption log 42). -/
def setManualRates (n : Fin 3) (s : State) : State :=
  lineList.foldl (fun s m =>
    if stands s n .manual m then
      setRate m (clamp (lineRec s m).manualRate (lineCfg s m).rmin (lineCfg s m).rmax) s
    else s) s

/-- Hm: the heat of the burner's MANUAL and STARTING lines (R62). -/
def fixedHeat (s : State) (n : Fin 3) : Nat :=
  ((lineList.filter fun m => stands s n .manual m || stands s n .starting m).map fun m =>
    heatOf (lineRec s m).rate (lineCfg s m).cv).sum

/-! Heat split (R63 to R67) -/

/-- Line numbers in backup order: rank 0 first, and among equal ranks the lower line number first (R63). -/
def backupOrder (s : State) : List (Fin 6) :=
  (List.range 8).flatMap fun r => lineList.filter fun m => (lineCfg s m).rank == r

/-- The AUTO lines of burner `n` in backup order, with their heat limits (R63). -/
def autoLines (s : State) (n : Fin 3) : List Alloc :=
  ((backupOrder s).filter (stands s n .auto)).map fun m =>
    let cfg := lineCfg s m
    { line := m, alt := isAlt s m, share := cfg.share, hmin := heatOf cfg.rmin cfg.cv,
      hmax := heatOf cfg.rmax cfg.cv, a := 0 }

/-- The heat that a split assigns to line `m`: 0 when it is no AUTO line (R63). -/
def assignedTo (xs : List Alloc) (m : Fin 6) : Nat := ((xs.find? (·.line == m)).map (·.a)).getD 0

/-- Store the assigned heats of burner `n` (R63). A line that is no longer AUTO takes 0 here, at the split, and not when it
left AUTO (the model's choice, assumption log 39). -/
def storeAssigned (n : Fin 3) (xs : List Alloc) (s : State) : State :=
  lineList.foldl (fun s m => if boundTo s n m then onLine m (fun x => { x with assigned := assignedTo xs m }) s else s) s

/-- The shortfall period count after a split (R66). -/
def shortCountNext (limit shortfall count : Nat) : Nat := if limit < shortfall then satInc 5 count else 0

/-- Stage S5: shortfall, overfire and their alarms (R66). R66 does not order the two alarms at one split; the model acts on
SHORTFALL first (the model's choice, assumption log 43). -/
def stageOutcome (n : Fin 3) (d : Nat) (xs : List Alloc) (s : State) : State :=
  let old := (s.fuel.demands.nth n).shortCount
  let shortfall := shortfallOf d xs
  let overfire := overfireOf d xs
  let count := shortCountNext (s.settings.demand.nth n).shortfallLimit shortfall old
  let s := onDemand n (fun r => { r with shortfall := shortfall, overfire := overfire, shortCount := count }) s
  let s := if count = 5 ∧ old < 5 then raise (burnerAlarm n 10) s
           else if count = 0 then clear (burnerAlarm n 10) s else s
  follow (burnerAlarm n 11) (decide (0 < overfire)) s

/-- Stage S6: the target rate of an assigned heat (R67). -/
def targetRate (cfg : LineCfg) (a : Nat) : Nat := clamp (a * 3600 / cfg.cv) cfg.rmin cfg.rmax

/-- Stages S6 to S8 for one AUTO line: target, one ramp, drive (R67). -/
def driveAuto (m : Fin 6) (s : State) : State :=
  let cfg := lineCfg s m
  let t := targetRate cfg (lineRec s m).assigned
  setRate m (rampTo (lineRec s m).rate t cfg.ramp) (onLine m (fun x => { x with target := t }) s)

/-- Stages S6 to S8 for the AUTO lines of burner `n` (R67), in ascending line number (the model's choice, assumption log
42). -/
def driveAutoLines (n : Fin 3) (s : State) : State :=
  lineList.foldl (fun s m => if stands s n .auto m then driveAuto m s else s) s

/-- The stages of one FIRING burner (R57 step 2). -/
def periodBurner (s : State) (n : Fin 3) : State :=
  if burnerState s n = .firing then
    let s := onDemand n (fun d => { d with target := fallbackTarget s n }) s
    let s := stageTrim n s
    let d2 := cappedDemand s n
    let s := setManualRates n (onDemand n (fun d => { d with effective := d2 }) s)
    let d := d2 - fixedHeat s n
    let xs := heatSplit d (s.settings.demand.nth n).substCap (autoLines s n)
    let s := storeAssigned n xs (onDemand n (fun r => { r with split := d }) s)
    driveAutoLines n (stageOutcome n d xs s)
  else s

/-! The period (R57, R58) -/

/-- The STARTING lines at the start of a processing, whose entry preceded it (R57 step 3). -/
def startingLines (s : State) : List (Fin 6) := lineList.filter fun m => (lineRec s m).actual == .starting

/-- The state a STARTING line converts to: its requested state, or MANUAL as the ignition line of a burner in MAIN-TRIAL
(R51, R52). -/
def conversion (s : State) (m : Fin 6) : LineState :=
  if burnerState s (lineCfg s m).burner = .firing then (lineRec s m).requested.state else .manual

/-- Line `m` is in the state its conversion gives. -/
def convertLine (s : State) (m : Fin 6) : State := onLine m (fun x => { x with actual := conversion s m }) s

/-- Converted line `m` starts its window and posts its LINE notice (R51, R56, R68). -/
def tellConversion (m : Fin 6) (s : State) : State :=
  let st := (lineRec s m).actual
  postLine m st (enterChange m .starting st s)

/-- Step 3 of a processing: the lines `ms` convert, and every line is re-formed by what that changes, in ascending line number
(R50, R51, R56, R57). -/
def convertLines (ms : List (Fin 6)) (s : State) : State :=
  reformTelling (fun m => if m ∈ ms then tellConversion m else id) (fun _ _ => true) (ms.foldl convertLine s)

/-- Every line's CV and Kf in force are those of its settings, as a period processing takes them (R44). -/
def takeFactors (s : State) : State :=
  { s with fuel := { s.fuel with factors := Tab.mapAll LineCfg.factors s.settings.lines } }

/-- A period processing over `ms` (R57); without burners FIRING at a SYNC edge, its step 1 alone (R58), which is no period
processing (R70) and takes no written CV or Kf (R44; deduced, assumption log 38). R57 gives the FIRING burners of step 2 no
order; the model takes burner 0, 1, 2 (the model's choice, assumption log 42). -/
def processPeriod (full : Bool) (ms : Nat) (s : State) : State :=
  let ready := startingLines s
  if full then convertLines ready (burnerList.foldl periodBurner (integrateAll ms (takeFactors s)))
  else integrateAll ms s

/-- The control period timer restarts with the setting in force; the fraction of a ms is carried (R57). -/
def restartPeriod (fraction : Nat) (s : State) : State :=
  { s with fuel := { s.fuel with periodLeft := Config.ms s.settings.fuel.controlPeriod
                                 periodLength := Config.ms s.settings.fuel.controlPeriod
                                 fraction := fraction } }

/-- A period that ends after `counts` base clock counts: its whole ms are processed and the rest is carried (R57,
assumption log 29). -/
def endPeriod (full : Bool) (counts : Nat) (s : State) : State :=
  let total := counts + s.fuel.fraction
  restartPeriod (total % Config.countsPerMs) (processPeriod full (total / Config.countsPerMs) s)

/-- CONTROL PERIOD EXPIRY (R57). -/
def execControlPeriodExpiry (s : State) : Result := .next (endPeriod true s.fuel.periodLength s)

/-- A burner is FIRING. -/
def anyFiring (s : State) : Bool := burnerList.any fun n => burnerState s n == .firing

/-- SYNC EDGE: with SYNC enable ON the period ends at the edge, otherwise the pin is not read (R58). -/
def execSyncEdge (s : State) : Result :=
  .next (if s.settings.general.syncEnable then
      endPeriod (anyFiring s) (s.fuel.periodLength - s.fuel.periodLeft) s
    else s)

/-! SET DEMAND (R45) -/

/-- SET DEMAND at the Fuel Line Controller (R45). -/
def setDemand (burner : Byte) (target : Word) (s : State) : Answer :=
  match number? 3 burner with
  | none => refuse .range s
  | some n =>
    let taken := min target.toNat (s.settings.demand.nth n).maxHeat
    ok (beBytes 1 (yesNo (taken != target.toNat)) ++ beBytes 4 taken)
      (onDemand n (fun d => { d with target := taken }) s)

/-- SET DEMAND (R45). -/
def execSetDemand (tag burner : Byte) (target : Word) (s : State) : Result :=
  answer 0x23#8 tag (setDemand burner target) s

end Sys2Proof.Machine
end

