-- ==== Sys2Proof/Machine/Burners.lean ====
section
/-! DEFINITION. The Burner Sequencers and the Kiln Mode Controller: state entries, lockout, flame windows, air permissive,
mode changes, and the burner and mode requests (R18 to R41, R112 to R120). -/

namespace Sys2Proof.Machine

/-! Kiln mode changes other than the entry into SHUTDOWN (R115) -/

/-- The class of a MODE notice (R115). -/
def modeClass (md : KilnMode) : NoticeClass := if md = .upset then .urgent else .routine

/-- The mode held, the pending shutdown set emptied, and the MODE notice (R115 steps 1 and 2). -/
def holdMode (md : KilnMode) (s : State) : State :=
  post (.mode md) (modeClass md) { s with kiln := { mode := md, pendingShutdown := Tab.fill false } }

/-- The Alarm Table is given the mode held: the holds by suppression begin and end here (R115 step 5, R132). -/
def giveMode (s : State) : State :=
  { s with rep := { s.rep with alarms := { s.rep.alarms with mode := s.kiln.mode } } }

/-- Line availability, then suppression and the releases it brings, after a mode change (R115 steps 4 and 5, R133). -/
def afterMode (s : State) : State := onRep releaseHeld (giveMode (reformAll s))

/-- A change of the kiln mode to a mode other than SHUTDOWN (R115). -/
def enterMode (md : KilnMode) (s : State) : State := afterMode (holdMode md s)

/-- Burner `n` leaves the pending shutdown set (R117). -/
def dropPending (n : Fin 3) (s : State) : State :=
  { s with kiln := { s.kiln with pendingShutdown := s.kiln.pendingShutdown.put n false } }

/-- The pending shutdown set is empty. -/
def noPending (s : State) : Bool := s.kiln.pendingShutdown.count id == 0

/-- What the Kiln Mode Controller does at a change of burner `n` to state `st`: UPSET at burner 0's lockout in PRODUCTION
(R118), the removal from the pending set and OFF when that empties it (R117). -/
def kilnSees (n : Fin 3) (st : BurnerState) (s : State) : State :=
  if n = 0 ∧ st = .lockedOut ∧ s.kiln.mode = .production then enterMode .upset s
  else if s.kiln.mode = .shutdown ∧ st.atRest ∧ s.kiln.pendingShutdown.nth n then
    let s := dropPending n s
    if noPending s then enterMode .off s else s
  else s

/-! Burner state entries (R19, R25, R26, R38) -/

/-- Burner `n` changed. -/
def onBurner (n : Fin 3) (f : BurnerRec → BurnerRec) (s : State) : State := { s with burners := s.burners.upd n f }

/-- PILOTn by state (Table 2-5). -/
def pilotOn : BurnerState → Bool
  | .pilotTrial | .mainTrial => true
  | .lockedOut | .idle | .purge | .firing | .stopping => false

/-- MAINPn by state (Table 2-5). -/
def mainOn : BurnerState → Bool
  | .mainTrial | .firing => true
  | .lockedOut | .idle | .purge | .pilotTrial | .stopping => false

/-- The step time in s that an entry loads, none where the step timer stops (R26, R30, R31, R32, R35). -/
def stepTime (t : TimingSet) : BurnerState → Option Nat
  | .purge => some t.purgeTime
  | .pilotTrial => some t.pilotTrialTime
  | .mainTrial => some t.mainTrialTime
  | .stopping => some t.postPurgeTime
  | .lockedOut | .idle | .firing => none

/-- Latch the timing set: the dark limit is formed anew, and a proven count above the new k is set to it (R19). -/
def latch (t : TimingSet) (b : BurnerRec) : BurnerRec :=
  { b with latched := t, darkLimit := t.darkLimit, proven := min b.proven t.k }

/-- The burner record at an entry into `st`: outputs, latched set, step and grace timers, proven count, and the window in
progress at an IDLE entry marked as not judged (R19, R25, R26, R29, R31). -/
def enterRec (t : TimingSet) (st : BurnerState) (b : BurnerRec) : BurnerRec :=
  let b := latch t b
  { b with
    state := st
    pilot := pilotOn st
    mainp := mainOn st
    stepRunning := (stepTime t st).isSome
    stepLeft := Config.sec ((stepTime t st).getD 0)
    grace := none
    proven := if st = .pilotTrial ∨ st = .lockedOut then 0 else b.proven
    unjudged := b.unjudged || st == .idle }

/-- The latched alarm of a lockout cause (Table 2-6). -/
def causeAlarm : LockoutCause → Option (Fin 16)
  | .flameFail => some 0 | .pilotFail => some 1 | .mainFail => some 2 | .falseFlame => some 3 | .airLost => some 4
  | .estop => some 6
  | .interlockStale => none | .powerUp => none | .settings => none

/-- Raise the latched alarm of a cause, when it has one (R26 step 5). -/
def raiseCause (n : Fin 3) (cause : LockoutCause) (s : State) : State :=
  match causeAlarm cause with
  | some k => raise (burnerAlarm n k) s
  | none => s

/-- INTERLOCK STALE and PURGE HELD of the burner end with their states (R26 step 6, R30, R34). -/
def endConditions (n : Fin 3) (s : State) : State := clear (burnerAlarm n 12) (clear (burnerAlarm n 5) s)

/-- The line changes that a burner's change of state brings (R38, R50, R52, R54). -/
def linesSee (n : Fin 3) (old st : BurnerState) (s : State) : State :=
  if st = .mainTrial then startIgnition n s
  else if st = .firing then linesFire n s
  else if old = .firing ∨ old = .mainTrial then linesLeave n s
  else reformBurner n s

/-- The class of a BURNER notice (R38). -/
def burnerClass (st : BurnerState) : NoticeClass := if st = .lockedOut then .urgent else .routine

/-- Entry of burner `n` into `st`: record, notice, the end of its conditions, lines, kiln mode (R25, R38, R117). -/
def enterBurner (n : Fin 3) (st : BurnerState) (s : State) : State :=
  let old := burnerState s n
  let s := onBurner n (enterRec (burnerCfg s n).timing st) s
  let s := endConditions n (post (.burner n st) (burnerClass st) s)
  kilnSees n st (linesSee n old st s)

/-- Entry of burner `n` into LOCKED-OUT with a cause; nothing when it is there already (R26). -/
def lockOut (n : Fin 3) (cause : LockoutCause) (s : State) : State :=
  let old := burnerState s n
  if old = .lockedOut then s
  else
    let t := (burnerCfg s n).timing
    let s := onBurner n (fun b => { enterRec t .lockedOut b with cause := cause, lockoutTime := s.clock }) s
    let s := post (.burner n .lockedOut) .urgent (feed (countLockout n) s)
    let s := endConditions n (raiseCause n cause s)
    kilnSees n .lockedOut (linesSee n old .lockedOut s)

/-- The end of a post-purge: FALSE-FLAME when either scanner's last verdict is FLAME, else IDLE (R35). -/
def endPostPurge (n : Fin 3) (s : State) : State :=
  if anyFlame (s.burners.nth n) then lockOut n .falseFlame s else enterBurner n .idle s

/-- Entry into STOPPING; a post-purge time of 0 s expires as it starts (R35). -/
def enterStopping (n : Fin 3) (s : State) : State :=
  let s := enterBurner n .stopping s
  if (s.burners.nth n).latched.postPurgeTime = 0 then endPostPurge n s else s

/-- A stop: BURNER STOP and the stop by SHUTDOWN (R36, Table 2-4). -/
def stopBurner (n : Fin 3) (s : State) : State :=
  match burnerState s n with
  | .purge | .pilotTrial => enterBurner n .idle s
  | .mainTrial | .firing => enterStopping n s
  | .lockedOut | .idle | .stopping => s

/-! Air permissive (R24, R30, R31, R32, R34) -/

/-- The air permissive of burner `n` in PURGE went TRUE or FALSE (R30). -/
def purgeAir (n : Fin 3) (permitted : Bool) (s : State) : State :=
  let s := onBurner n (fun b =>
    { b with stepRunning := permitted, stepLeft := Config.sec b.latched.purgeTime }) s
  follow (burnerAlarm n 12) (!permitted) s

/-- The stale grace of a FIRING burner starts; a grace of 0 s expires as it starts (R34). -/
def startGrace (n : Fin 3) (s : State) : State :=
  let s := onBurner n (fun b => { b with grace := some (Config.sec b.latched.staleGrace) }) s
  let s := raise (burnerAlarm n 5) s
  if (s.burners.nth n).latched.staleGrace = 0 then lockOut n .interlockStale s else s

/-- A change of the air permissive of burner `n` or of its reason, from `old` to `new` (R24, R30 to R34). -/
def airChanged (n : Fin 3) (old new : AirState) (s : State) : State :=
  match burnerState s n with
  | .purge =>
    if new = .permitted then purgeAir n true s
    else if old = .permitted then purgeAir n false s
    else s
  | .pilotTrial | .mainTrial => if new = .permitted then s else lockOut n .airLost s
  | .firing =>
    match new with
    | .permitted => clear (burnerAlarm n 5) (onBurner n (fun b => { b with grace := none }) s)
    | .staleOnly => startGrace n s
    | .lost => lockOut n .airLost s
  | .lockedOut | .idle | .stopping => s

/-- Re-form the air permissive of burner `n` (R24). -/
def reformAir (n : Fin 3) (s : State) : State :=
  let old := (s.burners.nth n).air
  let new := airOf s n
  if old = new then s else airChanged n old new (onBurner n (fun b => { b with air := new }) s)

/-- Re-form the air permissive of the burners that `p` names (R24). The manual gives the burners no order within one
event; the model takes burner 0 first, which orders their alarms and notices (the model's choice, assumption logs 14
and 15). -/
def reformAirs (p : Fin 3 → Bool) (s : State) : State :=
  burnerList.foldl (fun s n => if p n then reformAir n s else s) s

/-! Flame windows (R20 to R23) -/

/-- A rising edge on a scanner pin (R20). -/
def countPulse (x : ScannerRec) : ScannerRec := { x with counter := satInc 65535 x.counter }

/-- One scanner judged at a window expiry (R20). -/
def judgeScanner (t : TimingSet) (x : ScannerRec) : ScannerRec :=
  { counter := 0, last := x.counter, verdict := verdictOf t x.counter }

/-- The counts after the verdicts of a window (R22). -/
def countFlame (b : BurnerRec) : BurnerRec :=
  { b with
    proven := if bothFlame b then min b.latched.k (b.proven + 1) else 0
    dark := if anyFlame b then 0 else satInc 65535 b.dark }

/-- The disagreement timer after the verdicts of a window (R23). -/
def timeDisagreement (b : BurnerRec) : BurnerRec :=
  { b with disagree := if disagreeing b then some (b.disagree.getD (Config.sec b.latched.disagreeTime)) else none }

/-- The burner record after a flame window: the timer restarted, both scanners judged, counts and disagreement timer
(R20, R22, R23). -/
def judgeWindows (b : BurnerRec) : BurnerRec :=
  timeDisagreement (countFlame
    { b with
      flameTimer := Config.ms b.latched.flameWindow
      scanA := judgeScanner b.latched b.scanA
      scanB := judgeScanner b.latched b.scanB })

/-- A scanner fault alarm after a window: raised when the verdict becomes FAULT, cleared when it is not FAULT (R21). -/
def faultAlarm (a : Fin 512) (old new : Verdict) (s : State) : State :=
  if new = .fault then (if old = .fault then s else raise a s) else clear a s

/-- The transitions of a flame window, on the record it leaves; `judged` is false for the window in progress at an IDLE
entry (R29 to R33). -/
def flameActs (n : Fin 3) (judged : Bool) (s : State) : State :=
  let b := s.burners.nth n
  match b.state with
  | .idle | .purge => if judged && anyFlame b then lockOut n .falseFlame s else s
  | .pilotTrial => if proven b then enterBurner n .mainTrial s else s
  | .mainTrial => if flameGone b then lockOut n .mainFail s else s
  | .firing => if flameGone b then lockOut n .flameFail s else s
  | .lockedOut | .stopping => s

/-- A flame window expiry of burner `n` (R20 to R23, R29 to R33). When both scanner fault alarms change, the manual gives
them no order; the model takes A (+7), then B (+8) (the model's choice, assumption log 37). SCANNER DISAGREE follows them
(assumption log 55). -/
def flameWindow (n : Fin 3) (s : State) : State :=
  let old := s.burners.nth n
  let new := judgeWindows old
  let s := onBurner n (fun _ => { new with unjudged := false }) s
  let s := faultAlarm (burnerAlarm n 7) old.scanA.verdict new.scanA.verdict s
  let s := faultAlarm (burnerAlarm n 8) old.scanB.verdict new.scanB.verdict s
  let s := if new.scanA.verdict = new.scanB.verdict then clear (burnerAlarm n 9) s else s
  flameActs n (!old.unjudged) s

/-! Burner events -/

/-- SCANNER EDGE of burner `n` (R20). -/
def execScannerEdge (n : Fin 3) (sc : Scanner) (s : State) : Result :=
  .next (onBurner n (fun b =>
    match sc with
    | .a => { b with scanA := countPulse b.scanA }
    | .b => { b with scanB := countPulse b.scanB }) s)

/-- FLAME WINDOW EXPIRY of burner `n` (R20). -/
def execFlameWindowExpiry (n : Fin 3) (s : State) : Result := .next (flameWindow n s)

/-- DISAGREEMENT EXPIRY of burner `n`: the timer stops and SCANNER DISAGREE is raised; nothing when it is stopped (R23). -/
def execDisagreementExpiry (n : Fin 3) (s : State) : Result :=
  .next (if (s.burners.nth n).disagree.isSome then
      raise (burnerAlarm n 9) (onBurner n (fun b => { b with disagree := none }) s)
    else s)

/-- The step timer of burner `n` runs in state `st`. -/
def stepRuns (s : State) (n : Fin 3) (st : BurnerState) : Bool :=
  burnerState s n == st && (s.burners.nth n).stepRunning

/-- PURGE EXPIRY of burner `n` (R30). -/
def execPurgeExpiry (n : Fin 3) (s : State) : Result :=
  .next (if stepRuns s n .purge then enterBurner n .pilotTrial s else s)

/-- PILOT TRIAL EXPIRY of burner `n`, while it is not proven (R31). -/
def execPilotTrialExpiry (n : Fin 3) (s : State) : Result :=
  .next (if stepRuns s n .pilotTrial && !proven (s.burners.nth n) then lockOut n .pilotFail s else s)

/-- MAIN TRIAL EXPIRY of burner `n` (R32). -/
def execMainTrialExpiry (n : Fin 3) (s : State) : Result :=
  .next (if stepRuns s n .mainTrial then
      if proven (s.burners.nth n) then enterBurner n .firing s else lockOut n .mainFail s
    else s)

/-- POST PURGE EXPIRY of burner `n` (R35). -/
def execPostPurgeExpiry (n : Fin 3) (s : State) : Result :=
  .next (if stepRuns s n .stopping then endPostPurge n s else s)

/-- GRACE EXPIRY of burner `n` (R34). -/
def execGraceExpiry (n : Fin 3) (s : State) : Result :=
  .next (if (s.burners.nth n).grace.isSome then lockOut n .interlockStale s else s)

/-! Burner requests -/

/-- The six conditions of R28. -/
def startAllowed (s : State) (n : Fin 3) : Bool :=
  (s.kiln.mode == .heatUp || s.kiln.mode == .production || s.kiln.mode == .upset) &&
    !interlockForced s n && (s.burners.nth n).air == .permitted && s.points.estop.healthy &&
    !anyFlame (s.burners.nth n) &&
    (burnerCfg s n).ignitionLine.any fun m => (lineCfg s m).configured && boundTo s n m

/-- BURNER START at the Burner Sequencer (R28). -/
def burnerStart (burner : Byte) (s : State) : Answer :=
  match number? 3 burner with
  | none => refuse .range s
  | some n =>
    if burnerState s n = .idle ∧ startAllowed s n then ok [] (enterBurner n .purge s) else refuse .state s

/-- BURNER START (R28). -/
def execBurnerStart (tag burner : Byte) (s : State) : Result := answer 0x20#8 tag (burnerStart burner) s

/-- BURNER STOP at the Burner Sequencer (R36). -/
def burnerStop (burner : Byte) (s : State) : Answer :=
  match number? 3 burner with
  | none => refuse .range s
  | some n => ok [] (stopBurner n s)

/-- BURNER STOP (R36). -/
def execBurnerStop (tag burner : Byte) (s : State) : Result := answer 0x21#8 tag (burnerStop burner) s

/-- The conditions of R27. -/
def resetAllowed (s : State) (n : Fin 3) : Bool :=
  s.points.estop.healthy && !(s.rep.alarms.recs.nth 98).state.active && !anyFlame (s.burners.nth n)

/-- The alarms that RESET LOCKOUT clears (R27). -/
def lockoutAlarms : List (Fin 16) := [0, 1, 2, 3, 4, 6]

/-- A taken RESET LOCKOUT of burner `n`: IDLE, its latched alarms cleared, first-out group n rearmed (R27). -/
def resetBurner (n : Fin 3) (s : State) : State :=
  let s := enterBurner n .idle s
  rearm ⟨n.val, by omega⟩ (lockoutAlarms.foldl (fun s k => clear (burnerAlarm n k) s) s)

/-- RESET LOCKOUT at the Burner Sequencer (R27). -/
def resetLockout (burner : Byte) (s : State) : Answer :=
  match number? 3 burner with
  | none => refuse .range s
  | some n =>
    if burnerState s n = .lockedOut ∧ resetAllowed s n then ok [] (resetBurner n s) else refuse .state s

/-- RESET LOCKOUT (R27). -/
def execResetLockout (tag burner : Byte) (s : State) : Result := answer 0x22#8 tag (resetLockout burner) s

/-- The demand record fields of the READ BURNERS reply (R39, R45, Table 10-6). -/
def demandBytes (d : DemandRec) : List Byte :=
  beBytes 4 d.target ++ intBytes d.trim ++ beBytes 4 d.effective ++ beBytes 4 d.split ++ beBytes 4 d.shortfall ++
    beBytes 4 d.overfire ++ beBytes 1 d.shortCount

/-- The step timer of a burner in ms, rounded down, or 0 when stopped (R39, assumption log 8). -/
def stepMs (b : BurnerRec) : Nat := if b.stepRunning then b.stepLeft / Config.countsPerMs else 0

/-- One burner of the READ BURNERS reply (R39, Table 10-6); the unused bits of timers and outputs are 0 (assumption log
56). -/
def burnerBytes (s : State) (n : Fin 3) : List Byte :=
  let b := s.burners.nth n
  beBytes 1 b.state.code ++ beBytes 4 (stepMs b) ++ beBytes 1 b.cause.code ++ beBytes 4 b.lockoutTime ++
    beBytes 2 b.scanA.last ++ beBytes 1 b.scanA.verdict.code ++ beBytes 2 b.scanB.last ++
    beBytes 1 b.scanB.verdict.code ++ beBytes 1 b.proven ++ beBytes 1 b.latched.k ++ beBytes 2 b.dark ++
    beBytes 1 b.darkLimit ++ beBytes 1 (bitsOf [b.disagree.isSome, b.grace.isSome]) ++ beBytes 1 b.air.code ++
    beBytes 1 (bitsOf [b.pilot, b.mainp]) ++ beBytes 1 (yesNo (interlockForced s n)) ++
    demandBytes (s.fuel.demands.nth n)

/-- READ BURNERS at the Burner Sequencers (R39). -/
def readBurners (s : State) : Answer := ok (burnerList.flatMap (burnerBytes s)) s

/-- READ BURNERS (R39). -/
def execReadBurners (tag : Byte) (s : State) : Result := answer 0x24#8 tag readBurners s

/-! SET MODE (R113 to R117) -/

/-- The pending shutdown set formed from the burners that are not at rest (R116). -/
def formPending (s : State) : State :=
  { s with kiln := { s.kiln with pendingShutdown := Tab.make fun n => !(burnerState s n).atRest } }

/-- The entry into SHUTDOWN: mode and notice, the stops and the pending set, lines and suppression, the completion check
(R115, R116, R117). -/
def enterShutdown (s : State) : State :=
  let s := burnerList.foldl (fun s n => stopBurner n s) (holdMode .shutdown s)
  let s := afterMode (formPending s)
  if noPending s then enterMode .off s else s

/-- Table 6-2: SET MODE from mode `md` to another mode is taken, with the requirement of R114. -/
def modeAllowed (s : State) (md target : KilnMode) : Bool :=
  match md, target with
  | .off, .heatUp | .production, .heatUp | .upset, .heatUp | .shutdown, .heatUp => true
  | .heatUp, .production | .upset, .production => burnerState s 0 == .firing && s.cooler.state.runs
  | .heatUp, .shutdown | .production, .shutdown | .upset, .shutdown => true
  | _, _ => false

/-- A taken change of mode (R115). -/
def changeMode (md : KilnMode) (s : State) : State := if md = .shutdown then enterShutdown s else enterMode md s

/-- The reply data of SET MODE: the mode held, with every status (R113, R170). -/
def modeHeld (st : Status) (s : State) : Answer := (s, st, beBytes 1 s.kiln.mode.code)

/-- SET MODE at the Kiln Mode Controller (R113). -/
def setMode (mode : Byte) (s : State) : Answer :=
  match KilnMode.ofCode mode.toNat with
  | none => modeHeld .range s
  | some md =>
    if md = s.kiln.mode then modeHeld .ok s
    else if modeAllowed s s.kiln.mode md then modeHeld .ok (changeMode md s)
    else modeHeld .state s

/-- SET MODE (R113). -/
def execSetMode (tag mode : Byte) (s : State) : Result := answer 0x18#8 tag (setMode mode) s

end Sys2Proof.Machine
end

