-- ==== Sys2Proof/Machine/Points.lean ====
section
/-! DEFINITION. The Point Table: samples, ageing, limits, inputs, E-STOP, KEY, forces, and the point requests
(R1 to R16). -/

namespace Sys2Proof.Machine

/-- Point `p` changed. -/
def onPoint (p : Fin 96) (f : PointRec → PointRec) (s : State) : State :=
  { s with points := { s.points with points := s.points.points.upd p f } }

/-- Input `i` changed. -/
def onInput (i : Fin 16) (f : InputRec → InputRec) (s : State) : State :=
  { s with points := { s.points with inputs := s.points.inputs.upd i f } }

/-! Limits (R7, R8) -/

/-- A limit condition set, and its alarm raised or cleared at a change (R8). -/
def setCond (p : Fin 96) (j : Fin 4) (active : Bool) (s : State) : State :=
  if ((s.points.points.nth p).cond.nth j) = active then s
  else follow (limitAlarm p j) active (onPoint p (fun x => { x with cond := x.cond.put j active }) s)

/-- The evaluation of limit `j` of point `p`; an absent limit is not evaluated (R7). -/
def evalLimit (p : Fin 96) (s : State) (j : Fin 4) : State :=
  let cfg := s.settings.points.nth p
  let x := s.points.points.nth p
  if (cfg.limits.nth j).present then
    setCond p j (limitNext (highLimit j) (x.cond.nth j) x.value.toInt (cfg.limits.nth j).value.toInt cfg.deadband) s
  else s

/-- Limit evaluation of point `p` (R7). The manual gives the four limits no order within one event; the model takes HH, H,
L, LL, which orders their notices and first-out captures (the model's choice, assumption log 14). -/
def evalLimits (p : Fin 96) (s : State) : State := limitList.foldl (evalLimit p) s

/-! Users (R6, R24, R50) -/

/-- Re-form the lines of the burners whose kiln inlet point is `p` (R50). -/
def reformInlet (p : Fin 96) : State → State :=
  reformLines fun s m => (s.settings.demand.nth (lineCfg s m).burner).inletPoint == some p

/-- The users of point `p` after a change of its value or freshness: the burners whose air pressure point it is, then the
lines whose kiln inlet point it is (R24, R50, assumption log 14). -/
def pointUsers (p : Fin 96) (s : State) : State := reformInlet p (reformAirs (usesPoint s p) s)

/-- The users of input `i` after a change of its effective level, burner 0 first (R24, assumption log 14). -/
def inputUsers (i : Fin 16) (s : State) : State := reformAirs (usesInput s i) s

/-! Samples (R3, R4) -/

/-- A good entry (R4). -/
def goodSample (p : Fin 96) (v : Word) (s : State) : State :=
  let reload := (s.settings.points.nth p).reload
  pointUsers p (evalLimits p (onPoint p (fun x => { x with underlying := v, age := reload, quality := .good }) s))

/-- A BAD entry (R4). -/
def badSample (p : Fin 96) (s : State) : State :=
  let reload := (s.settings.points.nth p).reload
  pointUsers p (onPoint p (fun x => { x with age := reload, quality := .bad }) s)

/-- An entry is taken: a point number below 96 and a marker byte of 0 or 1 (R3). -/
def entryTaken (e : SampleEntry) : Bool := decide (e.point.toNat < 96) && decide (e.bad.toNat ≤ 1)

/-- Take one entry; a refused one changes nothing (R3, R4). -/
def takeEntry (s : State) (e : SampleEntry) : State :=
  match number? 96 e.point with
  | some p => if e.bad = 0 then goodSample p e.value s else if e.bad = 1 then badSample p s else s
  | none => s

/-- PUT SAMPLES at the Point Table (R3). -/
def putSamples (count : Byte) (entries : List SampleEntry) (s : State) : Answer :=
  if 1 ≤ count.toNat ∧ count.toNat ≤ 24 ∧ entries.length = count.toNat then
    ok (beBytes 1 (entries.countP entryTaken) ++ optBytes 1 (entries.findIdx? fun e => !entryTaken e))
      (entries.foldl takeEntry s)
  else refuse .length s

/-- PUT SAMPLES (R3). -/
def execPutSamples (tag count : Byte) (entries : List SampleEntry) (s : State) : Result :=
  answer 0x10#8 tag (putSamples count entries) s

/-! Ageing (R5) -/

/-- One supervision interval of a point (R5). -/
def agePoint (x : PointRec) : PointRec :=
  if x.age = 0 then x
  else if x.age = 1 then { x with age := 0, quality := .stale }
  else { x with age := x.age - 1 }

/-- SUPERVISION EXPIRY: the ages of all points, then the users of their freshness: burners, then lines (R5, R24, R50,
assumption log 15). -/
def execSupervisionExpiry (s : State) : Result :=
  let s := { s with points := { s.points with points := Tab.mapAll agePoint s.points.points
                                              supervision := Config.ms s.settings.general.supervision } }
  .next (reformAll (reformAirs (fun _ => true) s))

/-! Inputs, KEY, E-STOP (R10, R11) -/

/-- The debounce time in base clock counts (R10). -/
def debounceTime (s : State) : Nat := Config.ms s.settings.general.debounce

/-- A pin edge at a debounced input: the timer starts when the pin differs from the debounced level and stops when it
returns to it; a pin that does not change is no edge (R10). -/
def inputEdge (time : Nat) (high : Bool) (x : InputRec) : InputRec :=
  if x.pin = high then x
  else if high = x.level then { x with pin := high, timer := none }
  else { x with pin := high, candidate := high, timer := some time }

/-- DIN EDGE of input `i` (R10). -/
def execDinEdge (i : Fin 16) (high : Bool) (s : State) : Result := .next (onInput i (inputEdge (debounceTime s) high) s)

/-- DIN DEBOUNCE EXPIRY of input `i`: the debounced level takes the candidate; nothing when the timer is stopped (R10). -/
def execDinDebounceExpiry (i : Fin 16) (s : State) : Result :=
  .next (if (s.points.inputs.nth i).timer.isSome then
      inputUsers i (onInput i (fun x => { x with level := x.candidate, timer := none }) s)
    else s)

/-- KEY changed. -/
def onKey (f : KeyRec → KeyRec) (s : State) : State := { s with points := { s.points with key := f s.points.key } }

/-- A KEY pin edge, as a general input's (R11). -/
def keyPinEdge (time : Nat) (high : Bool) (x : KeyRec) : KeyRec :=
  if x.pin = high then x
  else if high = x.on then { x with pin := high, timer := none }
  else { x with pin := high, candidate := high, timer := some time }

/-- KEY EDGE (R11). -/
def execKeyEdge (high : Bool) (s : State) : Result := .next (onKey (keyPinEdge (debounceTime s) high) s)

/-- KEY DEBOUNCE EXPIRY; nothing when the timer is stopped (R11). -/
def execKeyDebounceExpiry (s : State) : Result :=
  .next (if s.points.key.timer.isSome then onKey (fun x => { x with on := x.candidate, timer := none }) s else s)

/-- E-STOP changed. -/
def onEstop (f : EstopRec → EstopRec) (s : State) : State :=
  { s with points := { s.points with estop := f s.points.estop } }

/-- ESTOP UNHEALTHY: the pin goes low, and E-STOP is UNHEALTHY at once. A change from HEALTHY locks out every burner,
burner 0 first (R11, R37). -/
def execEstopUnhealthy (s : State) : Result :=
  let was := s.points.estop.healthy
  let s := onEstop (fun _ => { pinHigh := false, healthy := false, timer := none }) s
  .next (if was then burnerList.foldl (fun s n => lockOut n .estop s) s else s)

/-- ESTOP PIN HIGH: the count toward HEALTHY starts; nothing when the pin is high already (R11). -/
def execEstopPinHigh (s : State) : Result :=
  .next (if s.points.estop.pinHigh then s
    else onEstop (fun x => { x with pinHigh := true, timer := some (debounceTime s) }) s)

/-- ESTOP HEALTHY: the pin has been high for the debounce time; nothing when the count does not run (R11). -/
def execEstopHealthy (s : State) : Result :=
  .next (if s.points.estop.timer.isSome then onEstop (fun x => { x with healthy := true, timer := none }) s else s)

/-! Forces (R12 to R14) -/

/-- The force of point `p` set, its limits evaluated and its users told (R13). -/
def setForce (p : Fin 96) (v : Word) (s : State) : State :=
  pointUsers p (evalLimits p (onPoint p (fun x => { x with force := some v }) s))

/-- FORCE POINT at the Point Table (R12, R13). -/
def forcePoint (point : Byte) (value : Word) (s : State) : Answer :=
  match number? 96 point with
  | none => refuse .range s
  | some p =>
    if pointProtected s p && (s.points.points.nth p).force != some value && !forceAllowed s (usesPoint s p) then
      refuse .protected_ s
    else ok [] (setForce p value s)

/-- FORCE POINT (R13). -/
def execForcePoint (tag point : Byte) (value : Word) (s : State) : Result := answer 0x12#8 tag (forcePoint point value) s

/-- The force of point `p` removed; its limits are evaluated when it stays fresh, and its users are told (R13). -/
def removeForce (p : Fin 96) (s : State) : State :=
  if pointForced s p then
    let s := onPoint p (fun x => { x with force := none }) s
    pointUsers p (if (s.points.points.nth p).fresh then evalLimits p s else s)
  else s

/-- UNFORCE POINT at the Point Table (R13). -/
def unforcePoint (point : Byte) (s : State) : Answer :=
  match number? 96 point with
  | none => refuse .range s
  | some p => ok [] (removeForce p s)

/-- UNFORCE POINT (R13). -/
def execUnforcePoint (tag point : Byte) (s : State) : Result := answer 0x13#8 tag (unforcePoint point) s

/-- The force state of input `i` after FORCE INPUTS (R14). The spec gives one bit per input and no bit order; the model takes
bit i for input i, and a data bit of 1 as ON (assumption log 49). -/
def forcedInput (mask data : Half) (i : Fin 16) (x : InputRec) : InputRec :=
  { x with forceMask := mask.getLsbD i.val, forceData := mask.getLsbD i.val && data.getLsbD i.val }

/-- FORCE INPUTS fails at input `i`: protected, forced afterwards with other data than it held, and not allowed (R14). -/
def inputFails (s : State) (mask data : Half) (i : Fin 16) : Bool :=
  let x := s.points.inputs.nth i
  inputProtected s i && mask.getLsbD i.val && !(x.forceMask && x.forceData == data.getLsbD i.val) &&
    !forceAllowed s (usesInput s i)

/-- All sixteen force masks and data replaced, and the burners told, burner 0 first (R14, R24, assumption log 14). -/
def setInputForces (mask data : Half) (s : State) : State :=
  let inputs := Tab.make fun i => forcedInput mask data i (s.points.inputs.nth i)
  reformAirs (fun _ => true) { s with points := { s.points with inputs := inputs } }

/-- FORCE INPUTS at the Point Table (R14). -/
def forceInputs (mask data : Half) (s : State) : Answer :=
  if (List.finRange 16).any (inputFails s mask data) then refuse .protected_ s else ok [] (setInputForces mask data s)

/-- FORCE INPUTS (R14). -/
def execForceInputs (tag : Byte) (mask data : Half) (s : State) : Result := answer 0x14#8 tag (forceInputs mask data) s

/-! READ POINTS (R9, Table 10-6) -/

/-- Shown quality: 4 FORCED while forced, else the point's quality. -/
def shownQuality (x : PointRec) : Nat := if x.force.isSome then 4 else x.quality.code

/-- Two bits of a limit: 0 ABSENT, 1 INACTIVE, 2 ACTIVE. -/
def limitBits (cfg : LimitCfg) (active : Bool) : Nat := if cfg.present then 1 + yesNo active else 0

/-- The limits byte: two bits each for HH (bits 0 and 1), H, L, LL. -/
def limitsByte (cfg : PointCfg) (x : PointRec) : Nat :=
  (limitList.map fun j => limitBits (cfg.limits.nth j) (x.cond.nth j) * 4 ^ j.val).sum

/-- One point of the READ POINTS reply. -/
def pointBytes (s : State) (p : Fin 96) : List Byte :=
  let x := s.points.points.nth p
  beBytes 1 p.val ++ wordBytes x.value ++ beBytes 1 (shownQuality x) ++ beBytes 1 x.age ++
    beBytes 1 (limitsByte (s.settings.points.nth p) x)

/-- The digital input section of the READ POINTS reply, input i at bit i of each 16-bit field, and 1 for ON in the levels and
the force data (assumption log 49). -/
def inputBytes (t : PointTable) : List Byte :=
  let bits := fun (f : InputRec → Bool) => beBytes 2 (bitsOf (t.inputs.toList.map f))
  bits (·.level) ++ bits (·.forceMask) ++ bits (·.forceData) ++ bits (·.effective) ++
    beBytes 1 (yesNo (!t.estop.healthy)) ++ beBytes 1 (yesNo t.key.on)

/-- READ POINTS at the Point Table (R9). -/
def readPoints (first count : Byte) (s : State) : Answer :=
  if first.toNat < 96 ∧ 1 ≤ count.toNat ∧ count.toNat ≤ 24 then
    let ps := ((List.finRange 96).drop first.toNat).take count.toNat
    ok (beBytes 1 ps.length ++ ps.flatMap (pointBytes s) ++ inputBytes s.points) s
  else refuse .range s

/-- READ POINTS (R9). -/
def execReadPoints (tag first count : Byte) (s : State) : Result := answer 0x11#8 tag (readPoints first count) s

end Sys2Proof.Machine
end

