-- ==== Sys2Proof/Machine/Cooler.lean ====
section
/-! DEFINITION. The Cooler Controller: speeds, fans, stall and pile-up, the cooler period, and the cooler requests
(R93 to R110). -/

namespace Sys2Proof.Machine

/-! Records -/

/-- The Cooler Controller changed. -/
def onCooler (f : CoolerCtl → CoolerCtl) (s : State) : State := { s with cooler := f s.cooler }

/-- Grate `n` changed. -/
def onGrate (n : Fin 3) (f : GrateRec → GrateRec) : State → State :=
  onCooler fun c => { c with grates := c.grates.upd n f }

/-- The state of grate `n`. -/
def grateState (s : State) (n : Fin 3) : GrateState := (s.cooler.grates.nth n).state

/-- Re-form the cutback request (R107). -/
def formCutback : State → State := onCooler fun c => { c with cutback := cutbackOf c }

/-- The class of a COOLER notice (R108). -/
def coolerClass (st : CoolerState) : NoticeClass :=
  match st with
  | .pileUp | .tripped => .urgent
  | .standby | .running => .routine

/-- The COOLER notice of a change of state (R108). -/
def postCooler (st : CoolerState) : State → State := post (.cooler st) (coolerClass st)

/-! Grate speed (R95) -/

/-- The speed of grate `n` from s0 (R95). Written smin, smax and ratio are used at once wherever a speed is formed, though R92
uses them at the next cooler period processing and is silent on a start before it (the model's choice, assumption log 44). -/
def grateSpeed (s : State) (n : Fin 3) : Nat :=
  let cfg := s.settings.grates.nth n
  if n = 0 then s.cooler.s0 else clamp (s.cooler.s0 * cfg.ratio / 1000) cfg.smin cfg.smax

/-- Hand the drive frequency of a RUNNING grate, keep the marker, and take its window speed (R95). A written Kd is used at
once in every hand-over (the model's choice, assumption log 44). -/
def driveGrate (n : Fin 3) (s : State) : State :=
  let v := (s.cooler.grates.nth n).speed
  let s := onRole (.grateDrive n) (fun cfg => handFreq cfg (v * s.settings.cooler.kd)) s
  let marker := markerOf (.grateDrive n) s
  onGrate n (fun g => { g with driveLimit := marker, windowSpeed := v }) s

/-- Form the speed of grate `n` and hand it when the grate is RUNNING (R95). -/
def formSpeed (s : State) (n : Fin 3) : State :=
  let v := grateSpeed s n
  let s := onGrate n (fun g => { g with speed := v }) s
  if grateState s n = .running then driveGrate n s else s

/-- Grate `n` starts: RUNNING, stall counter 0, window valid NO, its speed formed and handed from the settings as written
(R104, R106; the model's choice, assumption log 44). -/
def startGrate (n : Fin 3) (s : State) : State :=
  formSpeed (onGrate n (fun g => { g with state := .running, stalls := 0, windowValid := false }) s) n

/-- The drive of grate `n` is halted and its drive limit becomes NONE (R84, R99). -/
def haltGrate (n : Fin 3) (s : State) : State :=
  onGrate n (fun g => { g with driveLimit := .none }) (onRole (.grateDrive n) (fun _ => haltChannel) s)

/-- Grate `n` becomes STOPPED, halted when it was RUNNING. -/
def stopGrate (s : State) (n : Fin 3) : State :=
  let s := if grateState s n = .running then haltGrate n s else s
  onGrate n (fun g => { g with state := .stopped }) s

/-- Grate `n` becomes STOPPED when it is RUNNING; a STALLED one stays STALLED (R100). -/
def stopRunning (s : State) (n : Fin 3) : State := if grateState s n = .running then stopGrate s n else s

/-! Fans (R101, R103) -/

/-- The host reference raised to the boost reference while the boost is ON (Table 5-5). -/
def boosted (s : State) (n : Fin 6) : Nat :=
  let host := (s.cooler.fans.nth n).hostRef
  if s.cooler.boost then max host s.settings.cooler.boostRef else host

/-- The applied reference of fan `n` (Table 5-5). -/
def appliedOf (s : State) (n : Fin 6) : Nat :=
  match s.cooler.state with
  | .standby => s.settings.cooler.fanMin
  | .running | .tripped => boosted s n
  | .pileUp => if n.val < 2 then 1000 else boosted s n

/-- Hand fan `n` its applied reference (R101). -/
def handFan (n : Fin 6) (s : State) : State :=
  onRole (.fan n) (fun cfg => handDuty cfg (s.cooler.fans.nth n).applied) s

/-- Take the applied reference of fan `n` and hand it (R101). -/
def applyFan (n : Fin 6) (s : State) : State :=
  let v := appliedOf s n
  handFan n (onCooler (fun c => { c with fans := c.fans.upd n fun f => { f with applied := v } }) s)

/-- Re-form every applied reference; those that change are handed (R101). -/
def reformFans (s : State) : State :=
  fanList.foldl (fun s n => if appliedOf s n = (s.cooler.fans.nth n).applied then s else applyFan n s) s

/-- Re-form every applied reference and hand it, changed or not (R101). -/
def handFans (s : State) : State := fanList.foldl (fun s n => applyFan n s) s

/-- The outlet boost after its evaluation (R103). -/
def boostNext (s : State) : Bool :=
  match s.settings.cooler.outletPoint, freshValue s s.settings.cooler.outletPoint with
  | none, _ => false
  | some _, some v => decide (s.settings.cooler.boostTemp.toInt ≤ v)
  | some _, none => s.cooler.boost

/-! Stall and trip (R98 to R100) -/

/-- Entry into TRIPPED (R100, R119). The applied references follow at step 7 of the same processing (assumption log
31). -/
def tripCooler (s : State) : State :=
  let s := grateList.foldl stopRunning s
  let s := onCooler (fun c => { c with pileCount := 0, state := .tripped }) s
  let s := raise 84 (clear 85 (clear 80 (postCooler .tripped s)))
  let s := formCutback (feed countCoolerTrip s)
  if s.kiln.mode = .production then enterMode .upset s else s

/-- Grate `n` enters STALLED (R99, R100). The raise of its alarm precedes a trip (assumption log 55). -/
def stallGrate (n : Fin 3) (s : State) : State :=
  let s := onGrate n (fun g => { g with state := .stalled, stalls := 0 }) (haltGrate n s)
  let s := formCutback (raise (stallAlarm n) s)
  if n = 0 then tripCooler s else s

/-- Strokes expected of a window: floor(window speed × period / 600) (R98). -/
def expectedStrokes (speed period : Nat) : Nat := speed * period / 600

/-- The stall counter after a window (R98). -/
def stallsNext (expected strokes stalls : Nat) : Nat :=
  if 1 ≤ expected ∧ strokes * 2 < expected then satInc 20 stalls else 0

/-- The stall check of grate `n` over a period of `period` s: a RUNNING grate with a feedback channel and a valid window
(R89, R98, R99). -/
def checkGrate (period : Nat) (s : State) (n : Fin 3) : State :=
  let g := s.cooler.grates.nth n
  if g.state = .running ∧ g.windowValid ∧ assigned s (.grateFeedback n) then
    let expected := expectedStrokes g.windowSpeed period
    let stalls := stallsNext expected g.strokes g.stalls
    let s := onGrate n (fun g => { g with expected := expected, stalls := stalls }) s
    if s.settings.cooler.stallPeriods ≤ stalls then stallGrate n s else s
  else s

/-! The cooler period (R93) -/

/-- Step 2 for grate `n`: strokes and drive cycles captured (R93, R98, R109). -/
def captureGrate (s : State) (n : Fin 3) : State :=
  let s :=
    if assigned s (.grateFeedback n) then
      let x := captureEdges (.grateFeedback n) s
      feed (countStrokes n x.1) (onGrate n (fun g => { g with strokes := x.1 }) x.2)
    else s
  if assigned s (.grateDrive n) then
    let x := captureCycles (.grateDrive n) s
    onGrate n (fun g => { g with cycles := x.1 }) x.2
  else s

/-- After step 3 every RUNNING grate has a valid window (R98). Window valid of a STOPPED or STALLED grate keeps what it
was: no rule states a change of it, though by Table 5-2 a window that such a grate begins would be none with the grate
RUNNING throughout (the model's choice, assumption log 36). -/
def validateWindows : State → State := onCooler fun c =>
  { c with grates := Tab.mapAll (fun g => { g with windowValid := g.windowValid || g.state == .running }) c.grates }

/-- Step 4: pressure and UNDERGRATE PRESSURE STALE (R94). -/
def readPressure (s : State) : State :=
  match s.settings.cooler.pressurePoint, freshValue s s.settings.cooler.pressurePoint with
  | some p, some _ =>
    clear 85 (onCooler (fun c => { c with pressureFresh := true, pressure := (s.points.points.nth p).value }) s)
  | _, _ => raise 85 (onCooler (fun c => { c with pressureFresh := false }) s)

/-- Entry into PILE-UP (R96). -/
def enterPileUp (s : State) : State :=
  let s := onCooler (fun c => { c with pileCount := 0, state := .pileUp }) s
  formCutback (raise 80 (postCooler .pileUp s))

/-- Exit from PILE-UP into RUNNING (R97). -/
def leavePileUp (s : State) : State :=
  let s := onCooler (fun c => { c with pileCount := 0, state := .running }) s
  formCutback (clear 80 (postCooler .running s))

/-- The period counts toward the entry into PILE-UP, or toward the exit (R96, R97). -/
def pileQualifies (cfg : CoolerCfg) (st : CoolerState) (p : Int) : Bool :=
  match st with
  | .pileUp => decide (p < (cfg.ppile : Int) - cfg.pileHysteresis)
  | .running | .standby | .tripped => decide ((cfg.ppile : Int) < p)

/-- Step 5: pile-up counting, entry and exit (R96, R97). -/
def countPile (s : State) : State :=
  if s.cooler.pressureFresh then
    let cfg := s.settings.cooler
    let k := if pileQualifies cfg s.cooler.state s.cooler.pressure.toInt then satInc 20 s.cooler.pileCount else 0
    let s := onCooler (fun c => { c with pileCount := k }) s
    if cfg.pilePeriods ≤ k then (if s.cooler.state = .pileUp then leavePileUp s else enterPileUp s) else s
  else s

/-- The correction step of a pressure: trunc(e × Kg / 1000), clamped to step max (R95). -/
def correction (cfg : CoolerCfg) (p : Int) : Int :=
  clampInt (Int.tdiv ((p - cfg.pref) * cfg.kg) 1000) (-cfg.stepMax) cfg.stepMax

/-- s0 after step 6: smax of grate 0 in PILE-UP, corrected in RUNNING with a fresh pressure, else kept (R95, R97). -/
def s0Next (s : State) : Nat :=
  let g := s.settings.grates.nth 0
  let c := s.cooler
  if c.state = .pileUp then g.smax
  else if c.pressureFresh then
    (clampInt (c.s0 + correction s.settings.cooler c.pressure.toInt) g.smin g.smax).toNat
  else c.s0

/-- Step 6: s0, speeds and drive frequencies (R95, R97). -/
def setSpeeds (s : State) : State :=
  let v := s0Next s
  grateList.foldl formSpeed (onCooler (fun c => { c with s0 := v }) s)

/-- Step 7: the outlet boost, then every fan's applied reference handed (R101, R103). -/
def stepFans (s : State) : State :=
  let b := boostNext s
  handFans (onCooler (fun c => { c with boost := b }) s)

/-- Steps 4 to 6, which run in RUNNING and PILE-UP alone (R93). -/
def runBed (s : State) : State := if s.cooler.state.runs then setSpeeds (countPile (readPressure s)) else s

/-- COOLER PERIOD EXPIRY (R93). -/
def execCoolerPeriodExpiry (s : State) : Result :=
  let period := s.cooler.periodLength
  let next := s.settings.cooler.period
  let s := onCooler (fun c => { c with periodLeft := Config.sec next, periodLength := next }) s
  let s := if s.cooler.state = .pileUp then feed (countPileUp period) s else s
  let s := grateList.foldl captureGrate s
  let s := validateWindows (grateList.foldl (checkGrate period) s)
  .next (stepFans (runBed s))

/-! Requests (R102, R104, R105) -/

/-- COOLER START from STANDBY or TRIPPED, with s0 at the written smin of grate 0 (R104; the model's choice, assumption log
44), the COOLER notice last (assumption log 55). -/
def startCooler (s : State) : State :=
  let s := clear 84 (clear 83 (clear 82 (clear 81 s)))
  let s0 := (s.settings.grates.nth 0).smin
  let s := onCooler (fun c => { c with state := .running, s0 := s0, pileCount := 0 }) s
  let s := grateList.foldl (fun s n =>
    if assigned s (.grateDrive n) then startGrate n s else onGrate n (fun g => { g with state := .stopped }) s) s
  postCooler .running (reformFans (formCutback s))

/-- COOLER START for one grate of a RUNNING or PILE-UP cooler: a STALLED one is restarted (R104). -/
def restartGrate (s : State) (n : Fin 3) : State :=
  if grateState s n = .stalled then
    let s := clear (stallAlarm n) s
    if assigned s (.grateDrive n) then startGrate n s else onGrate n (fun g => { g with state := .stopped }) s
  else s

/-- COOLER START at the Cooler Controller (R104). -/
def coolerStart (s : State) : Answer :=
  if s.cooler.state.runs then ok [] (formCutback (grateList.foldl restartGrate s))
  else if assigned s (.grateDrive 0) then ok [] (startCooler s)
  else refuse .state s

/-- COOLER START (R104). -/
def execCoolerStart (tag : Byte) (s : State) : Result := answer 0x30#8 tag coolerStart s

/-- COOLER STOP from RUNNING, PILE-UP or TRIPPED (R105), in the order of R105's text (assumption log 55). -/
def stopCooler (s : State) : State :=
  let s := grateList.foldl stopGrate s
  let s := onCooler (fun c =>
    { c with state := .standby, pileCount := 0, grates := Tab.mapAll (fun g => { g with stalls := 0 }) c.grates }) s
  postCooler .standby (reformFans (formCutback (clear 85 (clear 80 s))))

/-- COOLER STOP at the Cooler Controller (R105). -/
def coolerStop (s : State) : Answer := ok [] (if s.cooler.state = .standby then s else stopCooler s)

/-- COOLER STOP (R105). -/
def execCoolerStop (tag : Byte) (s : State) : Result := answer 0x31#8 tag coolerStop s

/-- SET FANS at the Cooler Controller (R102). -/
def setFans (refs : List Half) (s : State) : Answer :=
  if refs.length = 6 then
    let taken := refs.map fun r => min r.toNat 1000
    let hosts := fun (n : Fin 6) (f : FanRec) => { f with hostRef := taken.getD n.val 0 }
    let t := onCooler (fun c => { c with fans := Tab.make fun n => hosts n (c.fans.nth n) }) s
    ok (beBytes 1 (yesNo (taken != refs.map BitVec.toNat)) ++ taken.flatMap (beBytes 2)) (reformFans t)
  else refuse .length s

/-- SET FANS (R102). -/
def execSetFans (tag : Byte) (refs : List Half) (s : State) : Result := answer 0x32#8 tag (setFans refs) s

/-! Channels given (R106) -/

/-- The drive channel of grate `n` given: a STOPPED grate of a RUNNING or PILE-UP cooler starts (R106). -/
def grateDriveGiven (n : Fin 3) (s : State) : State :=
  if s.cooler.state.runs && grateState s n == .stopped then startGrate n s else s

/-- The feedback channel of grate `n` given: for a RUNNING grate its edges are discarded and its window is not valid
(R98, R106). -/
def grateFeedbackGiven (n : Fin 3) (s : State) : State :=
  if grateState s n = .running then
    onGrate n (fun g => { g with windowValid := false }) (captureEdges (.grateFeedback n) s).2
  else s

/-! READ COOLER (R110, Table 10-6) -/

/-- One grate of the READ COOLER reply. Table 10-6 does not give the bits of its channels byte; the model takes those of the
READ LINES row, bit 0 drive and bit 1 feedback (assumption log 45), and 0 in its unused bits (log 56). -/
def grateBytes (s : State) (n : Fin 3) : List Byte :=
  let g := s.cooler.grates.nth n
  beBytes 1 g.state.code ++ beBytes 2 g.speed ++ beBytes 2 g.windowSpeed ++ beBytes 1 g.stalls ++
    beBytes 4 g.strokes ++ beBytes 1 g.expected ++ beBytes 4 g.cycles ++ beBytes 1 g.driveLimit.code ++
    beBytes 1 (bitsOf [assigned s (.grateDrive n), assigned s (.grateFeedback n)])

/-- One fan of the READ COOLER reply. -/
def fanBytes (s : State) (n : Fin 6) : List Byte :=
  let f := s.cooler.fans.nth n
  beBytes 2 f.hostRef ++ beBytes 2 f.applied ++ beBytes 1 (yesNo (assigned s (.fan n)))

/-- READ COOLER at the Cooler Controller (R110). -/
def readCooler (s : State) : Answer :=
  let c := s.cooler
  ok (beBytes 1 c.state.code ++ beBytes 2 c.s0 ++ beBytes 1 c.pileCount ++ wordBytes c.pressure ++
      beBytes 1 (yesFirst c.pressureFresh) ++ beBytes 1 (yesFirst c.boost) ++ beBytes 1 (yesFirst c.cutback) ++
      grateList.flatMap (grateBytes s) ++ fanList.flatMap (fanBytes s)) s

/-- READ COOLER (R110). -/
def execReadCooler (tag : Byte) (s : State) : Result := answer 0x33#8 tag readCooler s

end Sys2Proof.Machine
end

