-- ==== Sys2Proof/Machine/Operands.lean ====
section
/-! DEFINITION. The addresses and values of settings as they travel: group, instance and item, the value in 4 bytes, the
range of every item, and the lock level that protects it (R175 to R177, Table 11-1, R19, R43, R46, R91, R2, R125, R75). -/

namespace Sys2Proof.Machine

/-- A settings instance (Table 11-1). -/
inductive SettingAddr where
  | burner (n : Fin 3)
  | line (m : Fin 6)
  | demand (n : Fin 3)
  | fuelCommon
  | grate (n : Fin 3)
  | coolerCommon
  | point (p : Fin 96)
  | alarm (a : Fin 512)
  | alarmCommon
  | channel (c : Fin 24)
  | general
  deriving DecidableEq, Repr

/-- The number `v` as one of `n` numbers. -/
def fin? (n v : Nat) : Option (Fin n) := if h : v < n then some ⟨v, h⟩ else none

/-- The instance number of a common instance. -/
def commonInst : Nat := 65535

/-- The instance that a group and an instance number name, if the group has it (Table 11-1). -/
def addrOf (group inst : Nat) : Option SettingAddr :=
  match group with
  | 0 => (fin? 3 inst).map .burner
  | 1 =>
    if inst = commonInst then some .fuelCommon
    else if 16 ≤ inst then (fin? 3 (inst - 16)).map .demand
    else (fin? 6 inst).map .line
  | 2 => if inst = commonInst then some .coolerCommon else (fin? 3 inst).map .grate
  | 3 => (fin? 96 inst).map .point
  | 4 => if inst = commonInst then some .alarmCommon else (fin? 512 inst).map .alarm
  | 5 => (fin? 24 inst).map .channel
  | 6 => if inst = commonInst then some .general else none
  | _ => none

/-- The item is protected at a lock level (Table 11-1, R43: the light-off rate, item 9 of a line, as a G0 item). -/
def protectedAt (lock : Fin 4) (a : SettingAddr) (item : Nat) : Bool :=
  match a with
  | .burner _ => decide (1 ≤ lock.val)
  | .line _ => if item = 9 then decide (1 ≤ lock.val) else decide (2 ≤ lock.val)
  | .demand _ | .fuelCommon | .grate _ | .coolerCommon | .channel _ => decide (2 ≤ lock.val)
  | .point _ | .alarm _ | .alarmCommon | .general => lock.val == 3

/-! Values (R167, R175) -/

/-- A number as a setting value. -/
def num (n : Nat) : Word := BitVec.ofNat 32 n

/-- An optional number as a setting value: all bits set when none. -/
def optNum (o : Option Nat) : Word := match o with | some n => num n | none => BitVec.allOnes 32

/-- A value within [lo, hi]. -/
def within (lo hi : Nat) (v : Word) : Option Nat := if lo ≤ v.toNat ∧ v.toNat ≤ hi then some v.toNat else none

/-- A value within [lo, hi] in steps from 0. -/
def stepped (lo hi step : Nat) (v : Word) : Option Nat := (within lo hi v).filter fun n => n % step == 0

/-- A value NO or YES, OFF or ON, ABSENT or PRESENT. -/
def flag (v : Word) : Option Bool := (within 0 1 v).map (· == 1)

/-- A value that is none or one of `n` numbers. -/
def optWithin (n : Nat) (v : Word) : Option (Option (Fin n)) :=
  if v = BitVec.allOnes 32 then some none else (fin? n v.toNat).map some

/-! Burner settings (Table 2-2) -/

/-- Item of a burner instance. -/
def BurnerCfg.item (c : BurnerCfg) : Nat → Option Word
  | 0 => some (num c.timing.flameWindow)
  | 1 => some (num c.timing.ffrt)
  | 2 => some (num c.timing.k)
  | 3 => some (num c.timing.cmin)
  | 4 => some (num c.timing.cmax)
  | 5 => some (num c.timing.purgeTime)
  | 6 => some (num c.timing.pilotTrialTime)
  | 7 => some (num c.timing.mainTrialTime)
  | 8 => some (num c.timing.postPurgeTime)
  | 9 => some (num c.timing.staleGrace)
  | 10 => some (num c.timing.disagreeTime)
  | 11 => some (optNum (c.airPoint.map (·.val)))
  | 12 => some c.airMin
  | 13 => some (optNum (c.fanInput.map (·.val)))
  | 14 => some (optNum (c.ignitionLine.map (·.val)))
  | _ => none

/-- An item of a burner instance written, none where the value is out of range or leaves Cmin above Cmax (R19). -/
def BurnerCfg.write (c : BurnerCfg) (item : Nat) (v : Word) : Option BurnerCfg :=
  let t := c.timing
  match item with
  | 0 => (stepped 50 500 10 v).map fun x => { c with timing := { t with flameWindow := x } }
  | 1 => (within 1000 4000 v).map fun x => { c with timing := { t with ffrt := x } }
  | 2 => (within 1 10 v).map fun x => { c with timing := { t with k := x } }
  | 3 => (within 1 (min 10000 t.cmax) v).map fun x => { c with timing := { t with cmin := x } }
  | 4 => (within (max 1 t.cmin) 10000 v).map fun x => { c with timing := { t with cmax := x } }
  | 5 => (within 30 600 v).map fun x => { c with timing := { t with purgeTime := x } }
  | 6 => (within 5 15 v).map fun x => { c with timing := { t with pilotTrialTime := x } }
  | 7 => (within 5 30 v).map fun x => { c with timing := { t with mainTrialTime := x } }
  | 8 => (within 0 300 v).map fun x => { c with timing := { t with postPurgeTime := x } }
  | 9 => (within 0 30 v).map fun x => { c with timing := { t with staleGrace := x } }
  | 10 => (within 1 60 v).map fun x => { c with timing := { t with disagreeTime := x } }
  | 11 => (optWithin 96 v).map fun x => { c with airPoint := x }
  | 12 => some { c with airMin := v }
  | 13 => (optWithin 16 v).map fun x => { c with fanInput := x }
  | 14 => (optWithin 6 v).map fun x => { c with ignitionLine := x }
  | _ => none

/-! Line settings (Table 3-2) -/

/-- Item of a line instance. -/
def LineCfg.item (c : LineCfg) : Nat → Option Word
  | 0 => some (num (yesNo c.configured))
  | 1 => some (num c.burner.val)
  | 2 => some (num c.kind.code)
  | 3 => some (num c.cv)
  | 4 => some (num c.rmin)
  | 5 => some (num c.rmax)
  | 6 => some (num c.ramp)
  | 7 => some (num c.share)
  | 8 => some (num c.rank)
  | 9 => some (num c.lightOff)
  | 10 => some (num c.kf)
  | 11 => some (num c.ratio)
  | 12 => some (num c.tolerance)
  | 13 => some (num c.window)
  | 14 => some (num c.faultLimit)
  | 15 => some (optNum (c.weighPoint.map (·.val)))
  | _ => none

/-- The rates of a line stand in order: Rmin ≤ Rmax, and the light-off rate within them (R43). -/
def ratesFit (c : LineCfg) : Bool :=
  decide (c.rmin ≤ c.rmax) && decide (c.rmin ≤ c.lightOff) && decide (c.lightOff ≤ c.rmax)

/-- An item of a line instance written, none where the value is out of range or the rates would not fit (R43). -/
def LineCfg.write (c : LineCfg) (item : Nat) (v : Word) : Option LineCfg :=
  match item with
  | 0 => (flag v).map fun x => { c with configured := x }
  | 1 => (fin? 3 v.toNat).map fun x => { c with burner := x }
  | 2 => (FuelKind.ofCode v.toNat).map fun x => { c with kind := x }
  | 3 => (within 5000 45000 v).map fun x => { c with cv := x }
  | 4 => ((within 1 65535 v).map fun x => { c with rmin := x }).filter ratesFit
  | 5 => ((within 1 65535 v).map fun x => { c with rmax := x }).filter ratesFit
  | 6 => (within 1 65535 v).map fun x => { c with ramp := x }
  | 7 => (within 0 1000 v).map fun x => { c with share := x }
  | 8 => (within 0 7 v).map fun x => { c with rank := x }
  | 9 => ((within 0 65535 v).map fun x => { c with lightOff := x }).filter ratesFit
  | 10 => (within 1 65535 v).map fun x => { c with kf := x }
  | 11 => (within 1 65535 v).map fun x => { c with ratio := x }
  | 12 => (within 0 900 v).map fun x => { c with tolerance := x }
  | 13 => (within 1 10 v).map fun x => { c with window := x }
  | 14 => (within 1 10 v).map fun x => { c with faultLimit := x }
  | 15 => (optWithin 96 v).map fun x => { c with weighPoint := x }
  | _ => none

/-! Burner demand settings (Table 3-4) -/

/-- Item of a burner demand instance. -/
def DemandCfg.item (c : DemandCfg) : Nat → Option Word
  | 0 => some (num c.maxHeat)
  | 1 => some (num c.substCap)
  | 2 => some (optNum (c.inletPoint.map (·.val)))
  | 3 => some c.inletMin
  | 4 => some (num c.fallbackDemand)
  | 5 => some (num c.fallbackRamp)
  | 6 => some (num c.shortfallLimit)
  | _ => none

/-- An item of a burner demand instance written. -/
def DemandCfg.write (c : DemandCfg) (item : Nat) (v : Word) : Option DemandCfg :=
  match item with
  | 0 => (within 0 400000 v).map fun x => { c with maxHeat := x }
  | 1 => (within 0 1000 v).map fun x => { c with substCap := x }
  | 2 => (optWithin 96 v).map fun x => { c with inletPoint := x }
  | 3 => some { c with inletMin := v }
  | 4 => (within 0 400000 v).map fun x => { c with fallbackDemand := x }
  | 5 => (within 1 400000 v).map fun x => { c with fallbackRamp := x }
  | 6 => (within 0 400000 v).map fun x => { c with shortfallLimit := x }
  | _ => none

/-- Items 7 to 11, which burner 0 alone has. -/
def TrimCfg.item (c : TrimCfg) : Nat → Option Word
  | 7 => some (optNum (c.airPoint.map (·.val)))
  | 8 => some (num c.tref)
  | 9 => some (num c.ktrim)
  | 10 => some (num c.trimMax)
  | 11 => some (num c.heatUpCap)
  | _ => none

/-- Items 7 to 11 written. -/
def TrimCfg.write (c : TrimCfg) (item : Nat) (v : Word) : Option TrimCfg :=
  match item with
  | 7 => (optWithin 96 v).map fun x => { c with airPoint := x }
  | 8 => (within 0 2000 v).map fun x => { c with tref := x }
  | 9 => (within 0 2000 v).map fun x => { c with ktrim := x }
  | 10 => (within 0 100000 v).map fun x => { c with trimMax := x }
  | 11 => (within 0 400000 v).map fun x => { c with heatUpCap := x }
  | _ => none

/-- Item of the common fuel instance. -/
def FuelCfg.item (c : FuelCfg) : Nat → Option Word
  | 0 => some (num c.controlPeriod)
  | 1 => some (num c.cutback)
  | _ => none

/-- An item of the common fuel instance written. -/
def FuelCfg.write (c : FuelCfg) (item : Nat) (v : Word) : Option FuelCfg :=
  match item with
  | 0 => (stepped 100 2000 50 v).map fun x => { c with controlPeriod := x }
  | 1 => (within 0 1000 v).map fun x => { c with cutback := x }
  | _ => none

/-! Cooler settings (Table 5-3) -/

/-- Item of the common cooler instance. -/
def CoolerCfg.item (c : CoolerCfg) : Nat → Option Word
  | 0 => some (num c.period)
  | 1 => some (optNum (c.pressurePoint.map (·.val)))
  | 2 => some (num c.pref)
  | 3 => some (num c.ppile)
  | 4 => some (num c.pileHysteresis)
  | 5 => some (num c.kg)
  | 6 => some (num c.stepMax)
  | 7 => some (num c.pilePeriods)
  | 8 => some (num c.stallPeriods)
  | 9 => some (num c.kd)
  | 10 => some (num c.fanMin)
  | 11 => some (optNum (c.outletPoint.map (·.val)))
  | 12 => some c.boostTemp
  | 13 => some (num c.boostRef)
  | _ => none

/-- An item of the common cooler instance written. -/
def CoolerCfg.write (c : CoolerCfg) (item : Nat) (v : Word) : Option CoolerCfg :=
  match item with
  | 0 => (within 1 10 v).map fun x => { c with period := x }
  | 1 => (optWithin 96 v).map fun x => { c with pressurePoint := x }
  | 2 => (within 0 20000 v).map fun x => { c with pref := x }
  | 3 => (within 0 20000 v).map fun x => { c with ppile := x }
  | 4 => (within 0 5000 v).map fun x => { c with pileHysteresis := x }
  | 5 => (within 0 1000 v).map fun x => { c with kg := x }
  | 6 => (within 1 50 v).map fun x => { c with stepMax := x }
  | 7 => (within 1 20 v).map fun x => { c with pilePeriods := x }
  | 8 => (within 1 20 v).map fun x => { c with stallPeriods := x }
  | 9 => (within 1 10000 v).map fun x => { c with kd := x }
  | 10 => (within 0 1000 v).map fun x => { c with fanMin := x }
  | 11 => (optWithin 96 v).map fun x => { c with outletPoint := x }
  | 12 => some { c with boostTemp := v }
  | 13 => (within 0 1000 v).map fun x => { c with boostRef := x }
  | _ => none

/-- Item of grate instance `n`; grate 0 has no ratio (R91). -/
def GrateCfg.item (c : GrateCfg) (n : Fin 3) : Nat → Option Word
  | 0 => some (num c.smin)
  | 1 => some (num c.smax)
  | 2 => if n = 0 then none else some (num c.ratio)
  | _ => none

/-- An item of grate instance `n` written, none where smin would stand above smax (R91). -/
def GrateCfg.write (c : GrateCfg) (n : Fin 3) (item : Nat) (v : Word) : Option GrateCfg :=
  match item with
  | 0 => (within 1 (min 400 c.smax) v).map fun x => { c with smin := x }
  | 1 => (within (max 1 c.smin) 400 v).map fun x => { c with smax := x }
  | 2 => if n = 0 then none else (within 1 2000 v).map fun x => { c with ratio := x }
  | _ => none

/-! Point settings (Table 1-2, item order of Table 11-1) -/

/-- The limit of items 2 to 9: presence at even items, value at odd ones. -/
def limitOfItem (item : Nat) : Option (Fin 4) := if 2 ≤ item then fin? 4 ((item - 2) / 2) else none

/-- Item of a point instance. -/
def PointCfg.item (c : PointCfg) (item : Nat) : Option Word :=
  match item with
  | 0 => some (num c.reload)
  | 1 => some (num (match c.cls with | .process => 0 | .interlock => 1))
  | 10 => some (num c.deadband)
  | _ => (limitOfItem item).map fun j =>
      if item % 2 = 0 then num (yesNo (c.limits.nth j).present) else (c.limits.nth j).value

/-- An item of a point instance written. -/
def PointCfg.write (c : PointCfg) (item : Nat) (v : Word) : Option PointCfg :=
  match item with
  | 0 => (within 1 255 v).map fun x => { c with reload := x }
  | 1 => (flag v).map fun x => { c with cls := if x then .interlock else .process }
  | 10 => (within 0 1000000 v).map fun x => { c with deadband := x }
  | _ =>
    match limitOfItem item with
    | none => none
    | some j =>
      if item % 2 = 0 then
        (flag v).map fun x => { c with limits := c.limits.upd j fun l => { l with present := x } }
      else some { c with limits := c.limits.upd j fun l => { l with value := v } }

/-! Alarm, channel and general settings (R121, R125, Table 4-2, Table 11-1) -/

/-- Item of an alarm instance. -/
def AlarmCfg.item (c : AlarmCfg) : Nat → Option Word
  | 0 => some (num c.priority.val)
  | 1 => some (optNum (c.group.map (·.val)))
  | 2 => some (num c.suppress.toNat)
  | _ => none

/-- An item of an alarm instance written. -/
def AlarmCfg.write (c : AlarmCfg) (item : Nat) (v : Word) : Option AlarmCfg :=
  match item with
  | 0 => (fin? 4 v.toNat).map fun x => { c with priority := x }
  | 1 => (optWithin 8 v).map fun x => { c with group := x }
  | 2 => (within 0 31 v).map fun x => { c with suppress := BitVec.ofNat 5 x }
  | _ => none

/-- The code of a prescaler setting: 0 to 11, AUTO as the next number, 12 (assumption log 13). -/
def prescalerCode (p : Option (Fin 12)) : Nat := match p with | some k => k.val | none => 12

/-- The prescaler setting of a code. -/
def prescalerOf (v : Nat) : Option (Option (Fin 12)) := if v = 12 then some none else (fin? 12 v).map some

/-- The owner setting of a value: none, or a role (R175). -/
def ownerOf (v : Word) : Option (Option Role) :=
  if v = BitVec.allOnes 32 then some none else (Role.ofCode v.toNat).map some

/-- Item of a channel instance. -/
def ChannelCfg.item (c : ChannelCfg) : Nat → Option Word
  | 0 => some (num c.mode.code)
  | 1 => some (optNum (c.owner.map Role.code))
  | 2 => some (num (prescalerCode c.prescaler))
  | 3 => some (num c.dutyPeriod)
  | _ => none

/-- An item of a channel instance written, by its range alone (R75); R76 and R77 are checked apart. -/
def ChannelCfg.write (c : ChannelCfg) (item : Nat) (v : Word) : Option ChannelCfg :=
  match item with
  | 0 => (ChannelMode.ofCode v.toNat).map fun x => { c with mode := x }
  | 1 => (ownerOf v).map fun x => { c with owner := x }
  | 2 => (prescalerOf v.toNat).map fun x => { c with prescaler := x }
  | 3 => (within 2 65535 v).map fun x => { c with dutyPeriod := x }
  | _ => none

/-- Item of the general instance. -/
def GeneralCfg.item (c : GeneralCfg) : Nat → Option Word
  | 0 => some (num c.silenceTime)
  | 1 => some (num c.fallback.code)
  | 2 => some (num c.shiftLength)
  | 3 => some (num c.supervision)
  | 4 => some (num c.debounce)
  | 5 => some (num (yesNo c.syncEnable))
  | _ => none

/-- An item of the general instance written (R174, Table 3-4, R157, R5, R10). -/
def GeneralCfg.write (c : GeneralCfg) (item : Nat) (v : Word) : Option GeneralCfg :=
  match item with
  | 0 => (within 0 60 v).map fun x => { c with silenceTime := x }
  | 1 => (flag v).map fun x => { c with fallback := if x then .ramp else .hold }
  | 2 => (within 0 24 v).map fun x => { c with shiftLength := x }
  | 3 => (within 100 2000 v).map fun x => { c with supervision := x }
  | 4 => (within 5 100 v).map fun x => { c with debounce := x }
  | 5 => (flag v).map fun x => { c with syncEnable := x }
  | _ => none

/-! Settings as a whole -/

/-- The value of an item, none where the instance does not have it (R175, R176 step 1). -/
def Settings.item (cfg : Settings) (a : SettingAddr) (item : Nat) : Option Word :=
  match a with
  | .burner n => (cfg.burners.nth n).item item
  | .line m => (cfg.lines.nth m).item item
  | .demand n => if n = 0 ∧ 7 ≤ item then cfg.trim.item item else (cfg.demand.nth n).item item
  | .fuelCommon => cfg.fuel.item item
  | .grate n => (cfg.grates.nth n).item n item
  | .coolerCommon => cfg.cooler.item item
  | .point p => (cfg.points.nth p).item item
  | .alarm x => (cfg.alarms.nth x).item item
  | .alarmCommon => if item = 0 then some (num cfg.floodThreshold) else none
  | .channel c => (cfg.channels.nth c).item item
  | .general => cfg.general.item item

/-- The settings with an item written, none where its value is out of range (R176 step 3). -/
def Settings.write (cfg : Settings) (a : SettingAddr) (item : Nat) (v : Word) : Option Settings :=
  match a with
  | .burner n => ((cfg.burners.nth n).write item v).map fun x => { cfg with burners := cfg.burners.put n x }
  | .line m => ((cfg.lines.nth m).write item v).map fun x => { cfg with lines := cfg.lines.put m x }
  | .demand n =>
    if n = 0 ∧ 7 ≤ item then (cfg.trim.write item v).map fun x => { cfg with trim := x }
    else ((cfg.demand.nth n).write item v).map fun x => { cfg with demand := cfg.demand.put n x }
  | .fuelCommon => (cfg.fuel.write item v).map fun x => { cfg with fuel := x }
  | .grate n => ((cfg.grates.nth n).write n item v).map fun x => { cfg with grates := cfg.grates.put n x }
  | .coolerCommon => (cfg.cooler.write item v).map fun x => { cfg with cooler := x }
  | .point p => ((cfg.points.nth p).write item v).map fun x => { cfg with points := cfg.points.put p x }
  | .alarm x => ((cfg.alarms.nth x).write item v).map fun c => { cfg with alarms := cfg.alarms.put x c }
  | .alarmCommon => if item = 0 then (within 5 100 v).map fun x => { cfg with floodThreshold := x } else none
  | .channel c => ((cfg.channels.nth c).write item v).map fun x => { cfg with channels := cfg.channels.put c x }
  | .general => (cfg.general.write item v).map fun x => { cfg with general := x }

end Sys2Proof.Machine
end

