-- ==== Sys2Proof/Machine/SettingRequests.lean ====
section
/-! DEFINITION. READ SETTING and WRITE SETTING: the checks in their order, and what a taken write does at once (R176 and the
owning chapters' rules R2, R15, R19, R43, R44, R46, R75 to R78, R92, R106, R121, R125, R174). -/

namespace Sys2Proof.Machine

/-! The owning chapters' refusals (R176 step 4) -/

/-- The shares of the configured lines of burner `n` (R43). -/
def shareTotal (cfg : Settings) (n : Fin 3) : Nat :=
  ((cfg.lines.toList.filter fun l => l.configured && l.burner == n).map (·.share)).sum

/-- A burner's ignition line setting names line `m` (R43). -/
def namedIgnition (cfg : Settings) (m : Fin 6) : Bool := burnerList.any fun n => (cfg.burners.nth n).ignitionLine == some m

/-- The refusals of a burner instance: an ALT-SOLID ignition line RANGE (R43), the binding of a forced interlock while the
burner is not at rest STATE (R15). -/
def burnerRefusal (n : Fin 3) (item : Nat) (new : Settings) (s : State) : Option Status :=
  let c := new.burners.nth n
  if item = 14 ∧ c.ignitionLine.any (fun m => (new.lines.nth m).kind == .altSolid) then some .range
  else if !(burnerState s n).atRest &&
      ((item == 11 && c.airPoint.any (pointForced s)) || (item == 13 && c.fanInput.any (inputForced s))) then
    some .state
  else none

/-- The refusals of a line instance: the share sum and an ALT-SOLID ignition line RANGE, then configured, burner and kind
of a line that is not OFF STATE (R43, assumption log 21). -/
def lineRefusal (m : Fin 6) (item : Nat) (new : Settings) (s : State) : Option Status :=
  if (item = 0 ∨ item = 1 ∨ item = 7) ∧ burnerList.any (fun n => decide (1000 < shareTotal new n)) then some .range
  else if item = 2 ∧ (new.lines.nth m).kind = .altSolid ∧ namedIgnition s.settings m then some .range
  else if item ≤ 2 ∧ (lineRec s m).actual ≠ .off then some .state
  else none

/-- An owner and a mode fit (R76). -/
def ownerFits (c : ChannelCfg) : Bool := c.owner.all fun r => r.mode == c.mode

/-- A channel other than `c` carries the role (R77). -/
def carriedElsewhere (cfg : Settings) (c : Fin 24) (r : Role) : Bool :=
  (cfg.channels.select fun x => x.owner == some r).any (· != c)

/-- The refusals of mode and owner writes: a running owner STATE, a mode that does not fit RANGE, a role carried elsewhere
STATE (R76, R77, assumption log 21). -/
def channelRefusal (c : Fin 24) (item : Nat) (new : Settings) (s : State) : Option Status :=
  if 2 ≤ item then none
  else if (s.settings.channels.nth c).owner.any (ownerRuns s) then some .state
  else if !ownerFits (new.channels.nth c) then some .range
  else if (new.channels.nth c).owner.any (carriedElsewhere s.settings c) then some .state
  else none

/-- The owning chapter's own refusal of a write within range (R176 step 4). -/
def ownRefusal (a : SettingAddr) (item : Nat) (new : Settings) (s : State) : Option Status :=
  match a with
  | .burner n => burnerRefusal n item new s
  | .line m => lineRefusal m item new s
  | .channel c => channelRefusal c item new s
  | .demand _ | .fuelCommon | .grate _ | .coolerCommon | .point _ | .alarm _ | .alarmCommon | .general => none

/-! What a taken write does at once -/

/-- A burner write: latched at rest, or the air permissive re-formed (R19). -/
def burnerWritten (n : Fin 3) (item : Nat) (s : State) : State :=
  if item ≤ 10 then
    if (burnerState s n).atRest then onBurner n (latch (burnerCfg s n).timing) s else s
  else if item ≤ 13 then reformAir n s
  else s

/-- A write of Rmin or Rmax: the manual rate clamped, and the commanded rate of a running line, which is handed over
(R44). The ignition line in MAIN-TRIAL is clamped as any running line, by R44, though R52 keeps its rate at the light-off
rate throughout (the model's choice, assumption log 40). -/
def clampRates (m : Fin 6) (s : State) : State :=
  let cfg := lineCfg s m
  let s := onLine m (fun x => { x with manualRate := clamp x.manualRate cfg.rmin cfg.rmax }) s
  if (lineRec s m).actual.runs then setRate m (clamp (lineRec s m).rate cfg.rmin cfg.rmax) s else s

/-- A line write (R44). -/
def lineWritten (m : Fin 6) (item : Nat) (s : State) : State :=
  if item ≤ 2 then reformFrom m s
  else if item = 4 ∨ item = 5 then clampRates m s
  else if item = 15 ∧ (lineCfg s m).weighPoint = none then clear (lineAlarm m 1) s
  else s

/-- A burner demand write: the maximum heat clamps T, the conditions of R53 re-form the lines, and no secondary air point
clears SECONDARY AIR STALE (R45, R46). -/
def demandWritten (n : Fin 3) (item : Nat) (s : State) : State :=
  if item = 0 then onDemand n (fun d => { d with target := min d.target (s.settings.demand.nth n).maxHeat }) s
  else if item = 2 ∨ item = 3 then reformBurner n s
  else if item = 7 ∧ s.settings.trim.airPoint = none then clear 86 s
  else s

/-- A limit or deadband write: the conditions of absent limits cleared, then the present ones evaluated when the point is
fresh (R2). -/
def pointWritten (p : Fin 96) (item : Nat) (s : State) : State :=
  if item ≤ 1 then s
  else
    let s := limitList.foldl (fun s j =>
      if ((s.settings.points.nth p).limits.nth j).present then s else setCond p j false s) s
    if (s.points.points.nth p).fresh then evalLimits p s else s

/-- An alarm write: the release of R133 when the write ends the last hold (R121, R125). -/
def alarmWritten (a : Fin 512) : State → State := onRep fun e => releaseAlarm e a

/-- A channel given to a role: what its owner does (R50, R68, R78, R106). -/
def roleGiven (r : Role) (s : State) : State :=
  match r with
  | .lineDrive m => reformFrom m s
  | .lineFeedback m =>
    if (lineRec s m).actual = .auto ∨ (lineRec s m).actual = .manual then startWindow m s else s
  | .grateDrive n => grateDriveGiven n s
  | .grateFeedback n => grateFeedbackGiven n s
  | .fan n => handFan n s

/-- A channel taken from a role: a line's availability is re-formed; the other owners keep their state (R78, R106). -/
def roleTaken (r : Role) (s : State) : State :=
  match r with
  | .lineDrive m => reformFrom m s
  | .lineFeedback _ | .grateDrive _ | .grateFeedback _ | .fan _ => s

/-- A channel write: a mode or owner that changes clears the channel and tells the owners (R78). -/
def channelWritten (c : Fin 24) (item : Nat) (old : ChannelCfg) (s : State) : State :=
  let new := s.settings.channels.nth c
  if 2 ≤ item ∨ old = new then s
  else
    let s := onChannel c clearChannel s
    let s := match old.owner with | some r => if old.owner = new.owner then s else roleTaken r s | none => s
    match new.owner with | some r => if old.owner = new.owner then s else roleGiven r s | none => s

/-- A write of the silence time: 0 stops the timer, any other value restarts it while the link is NORMAL (R174). -/
def generalWritten (item : Nat) (s : State) : State :=
  let t := s.settings.general.silenceTime
  if item ≠ 0 then s
  else if t = 0 then { s with link := { s.link with silence := none } }
  else if s.link.state = .normal then { s with link := { s.link with silence := some (Config.sec t) } }
  else s

/-- What a taken write does at once, on the state that holds the new settings; `old` holds those before it. -/
def settingWritten (a : SettingAddr) (item : Nat) (old : Settings) (s : State) : State :=
  match a with
  | .burner n => burnerWritten n item s
  | .line m => lineWritten m item s
  | .demand n => demandWritten n item s
  | .coolerCommon => if item = 10 ∨ item = 13 then reformFans s else s
  | .point p => pointWritten p item s
  | .alarm x => alarmWritten x s
  | .channel c => channelWritten c item (old.channels.nth c) s
  | .general => generalWritten item s
  | .fuelCommon | .grate _ | .alarmCommon => s

/-- A write that passes every check (R176). -/
def takeWrite (a : SettingAddr) (item : Nat) (new : Settings) (s : State) : State :=
  settingWritten a item s.settings { s with settings := new }

/-! Requests -/

/-- The value of a setting as addressed by a request (R176 step 1). -/
def settingAt (s : State) (group : Byte) (inst : Half) (item : Byte) : Option (SettingAddr × Word) :=
  (addrOf group.toNat inst.toNat).bind fun a => (s.settings.item a item.toNat).map fun v => (a, v)

/-- READ SETTING at the Settings Store (R176). -/
def readSetting (group : Byte) (inst : Half) (item : Byte) (s : State) : Answer :=
  match settingAt s group inst item with
  | none => refuse .unknown s
  | some (_, v) => ok (wordBytes v) s

/-- READ SETTING (R176). -/
def execReadSetting (tag group : Byte) (inst : Half) (item : Byte) (s : State) : Result :=
  answer 0x50#8 tag (readSetting group inst item) s

/-- WRITE SETTING at the Settings Store (R176). -/
def writeSetting (group : Byte) (inst : Half) (item : Byte) (value : Word) (s : State) : Answer :=
  match settingAt s group inst item with
  | none => refuse .unknown s
  | some (a, _) =>
    if protectedAt s.lock a item.toNat then lockedOut s
    else
      match s.settings.write a item.toNat value with
      | none => refuse .range s
      | some new =>
        match ownRefusal a item.toNat new s with
        | some st => refuse st s
        | none => ok [] (takeWrite a item.toNat new s)

/-- WRITE SETTING (R176). -/
def execWriteSetting (tag group : Byte) (inst : Half) (item : Byte) (value : Word) (s : State) : Result :=
  answer 0x51#8 tag (writeSetting group inst item value) s

end Sys2Proof.Machine
end

