-- ==== Sys2Proof/Machine/Resets.lean ====
section
/-! DEFINITION. The three resets and the start-up (R181, R182, R173, R17, R40, R73, R88, R111, R123, R145, R153, R164,
R166). -/

namespace Sys2Proof.Machine

/-- The working settings and lock level a reset loads, and the lockout cause that goes with them: the stored image and
lock record when the image is valid, else the factory defaults with level 3 (R181 step 3, R40). -/
def loadedSettings (nv : Nonvolatile) : Settings × Fin 4 × LockoutCause :=
  match nv.image with
  | some cfg => (cfg, nv.lockRecord.getD 3, .powerUp)
  | none => (Settings.factory, 3, .settings)

/-- Every block with its reset values (R181 steps 1 to 5), for the plant clock, the CLOCK-UNSET flag and the ring that the
reset's cause leaves. Pins, non-volatile storage and waiting commands are kept (assumption log 34). -/
def beginBlocks (cause : ResetCause) (straps : Straps) (clock : Nat) (clockUnset : Bool) (ring : Tab 8 Slot)
    (s : State) : State :=
  let loaded := loadedSettings s.nv
  let cfg := loaded.1
  { settings := cfg, lock := loaded.2.1, clock := clock, clockTimer := Config.sec 1, resetCause := cause,
    straps := straps,
    points := .begin cfg.general (Tab.mapAll (·.pin) s.points.inputs) s.points.estop.pinHigh s.points.key.pin,
    burners := Tab.mapAll (.begin loaded.2.2 clock) cfg.burners,
    fuel := .begin cfg, channels := Tab.fill .begin, cooler := .begin cfg.cooler, kiln := .begin,
    rep := .begin ring s.nv.copies clock clockUnset, link := .begin straps, nv := s.nv, store := .begin,
    pending := s.pending }

/-- The start-up notices and alarms: START, then alarm 103 when CLOCK-UNSET is set, then alarm 98 when the image was
invalid (R153, R181 step 6). -/
def startUp (cause : ResetCause) (s : State) : State :=
  let s := post (.start cause) .routine s
  let s := if s.rep.sticky.clockUnset then raise 103 s else s
  if s.nv.image.isNone then raise 98 s else s

/-- A reset by POWER-ON or RESET-PIN: clock 0, CLOCK-UNSET set, ring EMPTY (R164, R181). -/
def coldReset (cause : ResetCause) (straps : Straps) (s : State) : State :=
  startUp cause (beginBlocks cause straps 0 true (Tab.fill .empty) s)

/-- The reset by RESTART: the strap pins are read again, at the levels they have now (R166, assumption log 6); clock,
CLOCK-UNSET and ring kept, every hold count 0 (R164, R181). -/
def restartReset (s : State) : State :=
  let ring := Tab.mapAll (fun x => { x with hold := 0 }) s.rep.shift.ring
  startUp .restart (beginBlocks .restart s.straps s.clock s.rep.sticky.clockUnset ring s)

/-- POWER ON, which finds the strap pins BAUD1 and BAUD0 at the levels given (R166, R181, assumption log 6). -/
def execPowerOn (baud1 baud0 : Bool) (s : State) : Result :=
  .next (coldReset .powerOn { baud1 := baud1, baud0 := baud0 } s)

/-- RESET PIN, which finds the strap pins BAUD1 and BAUD0 at the levels given (R166, R181, assumption log 6). -/
def execResetPin (baud1 baud0 : Bool) (s : State) : Result :=
  .next (coldReset .resetPin { baud1 := baud1, baud0 := baud0 } s)

/-- RESTART RESET: taken when a RESTART has been answered (R173, assumption log 4). -/
def execRestartReset (s : State) : Result := .next (if s.link.restartPending then restartReset s else s)

end Sys2Proof.Machine
end

