-- ==== Sys2Proof/Machine/Link.lean ====
section
/-! DEFINITION. The Link Port: general requests, the status record, frames and their service, the silence timer, and the
plant clock (R166 to R174). -/

namespace Sys2Proof.Machine

/-- The Link Port changed. -/
def onLink (f : LinkPort → LinkPort) (s : State) : State := { s with link := f s.link }

/-! General requests (R171 to R173) -/

/-- IDENTIFY at the Link Port (R172, Table 10-7). The logic revision is a free value (assumption log 9). -/
def identify (s : State) : Answer :=
  ok (beBytes 2 Config.partNumber ++ [Config.logicRevision] ++ beBytes 1 s.link.rate.val) s

/-- IDENTIFY (R172). -/
def execIdentify (tag : Byte) (s : State) : Result := answer 0x01#8 tag identify s

/-- The sticky flags byte of the status record (Table 10-5); bits 6 and 7 are 0 (assumption log 56). -/
def stickyByte (f : StickyFlags) : Nat :=
  bitsOf [f.crcError, f.overrun, f.noticeLost, f.protectViolation, f.storeFault, f.clockUnset]

/-- The status record, 29 bytes (Table 10-5); the unused bits of the pending shutdown set are 0 (assumption log 56). -/
def statusRecord (s : State) : List Byte :=
  let t := s.rep.alarms
  let q := s.rep.notices
  beBytes 1 s.kiln.mode.code ++ beBytes 1 (bitsOf s.kiln.pendingShutdown.toList) ++
    burnerList.flatMap (fun n => beBytes 1 (burnerState s n).code) ++ beBytes 1 s.cooler.state.code ++
    beBytes 1 s.link.state.code ++ beBytes 1 (stickyByte s.rep.sticky) ++ beBytes 2 s.link.errors ++
    beBytes 2 q.lost ++ beBytes 2 t.unackCount ++ beBytes 2 t.activeCount ++ beBytes 2 q.urgent.length ++
    beBytes 2 q.routine.length ++ beBytes 1 (forcesActive s) ++ beBytes 1 s.lock.val ++
    beBytes 1 (yesNo s.store.inFlight.isSome) ++ beBytes 1 s.resetCause.code ++ beBytes 1 (yesNo t.flood) ++
    beBytes 4 s.clock

/-- STATUS at the Link Port (R171). -/
def status (s : State) : Answer := ok (statusRecord s) s

/-- STATUS (R171). -/
def execStatus (tag : Byte) (s : State) : Result := answer 0x02#8 tag status s

/-- The sticky flags, the link error count and the lost count cleared; CLOCK-UNSET stays (R171 steps 1 and 2). -/
def zeroFlags (s : State) : State :=
  let s := setSticky (fun f =>
    { crcError := false, overrun := false, noticeLost := false, protectViolation := false, storeFault := false,
      clockUnset := f.clockUnset }) s
  let s := onLink (fun l => { l with errors := 0 }) s
  { s with rep := { s.rep with notices := { s.rep.notices with lost := 0 } } }

/-- CLEAR FLAGS at the Link Port (R171), alarm 97 before alarm 101 (assumption log 55). -/
def clearFlags (s : State) : Answer := ok [] (clear 101 (clear 97 (zeroFlags s)))

/-- CLEAR FLAGS (R171). -/
def execClearFlags (tag : Byte) (s : State) : Result := answer 0x03#8 tag clearFlags s

/-- SET CLOCK at the Link Port (R172). R172 sets the clock and clears alarm 103 in one event without an order; the model sets
the clock first, so the clear is stamped with the new value (the model's choice, assumption log 53). -/
def setClock (clock : Word) (s : State) : Answer :=
  let s := setSticky (fun f => { f with clockUnset := false })
    { s with clock := clock.toNat, clockTimer := Config.sec 1 }
  ok [] (feed (fun x => { x with clockSetDuring := true }) (clear 103 s))

/-- SET CLOCK (R172). -/
def execSetClock (tag : Byte) (clock : Word) (s : State) : Result := answer 0x04#8 tag (setClock clock) s

/-- RESTART at the Link Port: answered OK, its reset to come when the reply has left TXD (R173). -/
def restart (s : State) : Answer := ok [] (onLink (fun l => { l with restartPending := true }) s)

/-- RESTART (R173). -/
def execRestart (tag : Byte) (s : State) : Result := answer 0x05#8 tag restart s

/-- UNKNOWN REQUEST CODE: answered UNKNOWN with no change (R170). -/
def execUnknownRequestCode (code tag : Byte) (s : State) : Result := answer code tag (refuse .unknown) s

/-- PLANT CLOCK SECOND (R172). -/
def execPlantClockSecond (s : State) : Result :=
  .next { s with clock := satInc max32 s.clock, clockTimer := Config.sec 1 }

/-! The reply on TXD (R167, R170) -/

/-- The body of a reply: request code and tag, the status code, the data (R167). -/
def Reply.body (r : Reply) : List Byte := r.code :: r.tag :: BitVec.ofNat 8 r.status.code :: r.data

/-- The bytes sent on TXD for the reply in the reply buffer, when there is one (R167, R169). -/
def sentFrame (s : State) : Option (List Byte) := s.link.reply.map fun r => replyFrame r.body

/-- The levels sent on TXD for the reply in the reply buffer, character after character (R166, R169). The model leaves no gap
between characters, where R169 allows up to one character time (assumption log 50). -/
def txdLevels (s : State) : List Bool := ((sentFrame s).getD []).flatMap character

/-- The level of TXD, `k` bit times after the start of the reply in the reply buffer: idle high after its last character, and
with no reply, as after every reset (R166). -/
def txdLevel (s : State) (k : Nat) : Bool := (txdLevels s).getD k true

/-! Service of a request frame (R167, R170) -/

/-- The byte at offset `i` of the parameters. -/
def byteAt (ps : List Byte) (i : Nat) : Byte := ps.getD i 0

/-- The two-byte field at offset `i`. -/
def halfAt (ps : List Byte) (i : Nat) : Half := BitVec.ofNat 16 (fromBytes ((ps.drop i).take 2))

/-- The four-byte field at offset `i`. -/
def wordAt (ps : List Byte) (i : Nat) : Word := BitVec.ofNat 32 (fromBytes ((ps.drop i).take 4))

/-- The sample entries of PUT SAMPLES, `k` of them (R3, Table 10-7). -/
def entriesOf : Nat → List Byte → List SampleEntry
  | 0, _ => []
  | k + 1, ps => { point := byteAt ps 0, value := wordAt ps 1, bad := byteAt ps 5 } :: entriesOf k (ps.drop 6)

/-- A request of `k` parameter bytes: LENGTH when the body has another length (R170). -/
def sized (k : Nat) (ps : List Byte) (serve : State → Answer) (s : State) : Answer :=
  if ps.length = k then serve s else refuse .length s

/-- PUT SAMPLES of a frame: its length is 6 bytes for each entry it counts (R3, Table 10-7). -/
def putSamplesFrame (ps : List Byte) (s : State) : Answer :=
  match ps with
  | count :: rest => sized (6 * count.toNat) rest (putSamples count (entriesOf count.toNat rest)) s
  | [] => refuse .length s

/-- SET MODE of a frame: its reply carries the mode held with LENGTH too (R113, R170). -/
def setModeFrame (ps : List Byte) (s : State) : Answer :=
  if ps.length = 1 then setMode (byteAt ps 0) s else modeHeld .length s

/-- The service of a request by its code and parameters (R170, Table 10-7). -/
def serveCode (code : Nat) (ps : List Byte) : State → Answer :=
  let b := byteAt ps
  match code with
  | 0x01 => sized 0 ps identify
  | 0x02 => sized 0 ps status
  | 0x03 => sized 0 ps clearFlags
  | 0x04 => sized 4 ps (setClock (wordAt ps 0))
  | 0x05 => sized 0 ps restart
  | 0x10 => putSamplesFrame ps
  | 0x11 => sized 2 ps (readPoints (b 0) (b 1))
  | 0x12 => sized 5 ps (forcePoint (b 0) (wordAt ps 1))
  | 0x13 => sized 1 ps (unforcePoint (b 0))
  | 0x14 => sized 4 ps (forceInputs (halfAt ps 0) (halfAt ps 2))
  | 0x18 => setModeFrame ps
  | 0x20 => sized 1 ps (burnerStart (b 0))
  | 0x21 => sized 1 ps (burnerStop (b 0))
  | 0x22 => sized 1 ps (resetLockout (b 0))
  | 0x23 => sized 5 ps (setDemand (b 0) (wordAt ps 1))
  | 0x24 => sized 0 ps readBurners
  | 0x28 => sized 1 ps (lineOff (b 0))
  | 0x29 => sized 1 ps (lineAuto (b 0))
  | 0x2A => sized 3 ps (lineManual (b 0) (halfAt ps 1))
  | 0x2B => sized 1 ps (resetLine (b 0))
  | 0x2C => sized 0 ps readLines
  | 0x30 => sized 0 ps coolerStart
  | 0x31 => sized 0 ps coolerStop
  | 0x32 => sized 12 ps (setFans [halfAt ps 0, halfAt ps 2, halfAt ps 4, halfAt ps 6, halfAt ps 8, halfAt ps 10])
  | 0x33 => sized 0 ps readCooler
  | 0x38 => sized 3 ps (ackAlarms (halfAt ps 0) (b 2))
  | 0x39 => sized 5 ps (shelveAlarms (halfAt ps 0) (b 2) (halfAt ps 3))
  | 0x3A => sized 3 ps (unshelveAlarms (halfAt ps 0) (b 2))
  | 0x3B => sized 5 ps (readAlarms (halfAt ps 0) (b 2) (halfAt ps 3))
  | 0x3C => sized 0 ps readFirstOut
  | 0x3D => sized 1 ps (rearmFirstOut (b 0))
  | 0x40 => sized 1 ps (fetchNotices (b 0))
  | 0x48 => sized 0 ps closeShift
  | 0x49 => sized 4 ps (holdReport (wordAt ps 0))
  | 0x4A => sized 4 ps (releaseReport (wordAt ps 0))
  | 0x4B => sized 5 ps (readReport (wordAt ps 0) (b 4))
  | 0x4C => sized 0 ps readOpenShift
  | 0x50 => sized 4 ps (readSetting (b 0) (halfAt ps 1) (b 3))
  | 0x51 => sized 8 ps (writeSetting (b 0) (halfAt ps 1) (b 3) (wordAt ps 4))
  | 0x52 => sized 0 ps saveSettings
  | 0x53 => sized 1 ps (setLock (b 0))
  | _ => refuse .unknown

/-- The service of a frame's body: code, tag, parameters (R167, R169, R170). -/
def serveBody (body : List Byte) (s : State) : State :=
  match body with
  | code :: tag :: ps => respond code tag (serveCode code.toNat ps s)
  | _ => s

/-! Link events (R168, R169, R174) -/

/-- A frame discarded for a reception error: CRC-ERROR, the error count, and the line ignored until it has been idle
(R168). -/
def discardFrame (s : State) : State :=
  onLink (fun l => { l with errors := satInc 65535 l.errors, hunting := false })
    (setSticky (fun f => { f with crcError := true }) s)

/-- The completion of a valid frame at the Link Port: link state and silence timer (R174). -/
def frameHeard (s : State) : State :=
  let was := s.link.state
  let t := s.settings.general.silenceTime
  let s := onLink (fun l =>
    { l with state := .normal, silence := if t = 0 then l.silence else some (Config.sec t) }) s
  if was = .silent then clear 96 s else s

/-- A valid frame's body: served, held while a reply is being sent, or discarded by overrun (R169). -/
def takeBody (body : List Byte) (s : State) : State :=
  if s.link.hold.isSome then setSticky (fun f => { f with overrun := true }) s
  else if s.link.reply.isSome then onLink (fun l => { l with hold := some body }) s
  else serveBody body s

/-- VALID FRAME: the bytes of a frame complete on RXD. Bytes that are no valid frame are discarded by R168; while the line
is ignored nothing is taken (R168, R169, R174, assumption log 28). -/
def execValidFrame (frame : List Byte) (s : State) : Result :=
  .next (if s.link.hunting then
      match frameBody frame with
      | some body => takeBody body (frameHeard s)
      | none => discardFrame s
    else s)

/-- FRAME DISCARD: one of the five faults; the causes act alike (R168). -/
def execFrameDiscard (cause : DiscardCause) (s : State) : Result :=
  .next (if s.link.hunting then
      match cause with
      | .marker => discardFrame s
      | .length => discardFrame s
      | .gap => discardFrame s
      | .stopBit => discardFrame s
      | .crc => discardFrame s
    else s)

/-- LINK IDLE HUNT (R168). -/
def execLinkIdleHunt (s : State) : Result := .next (onLink (fun l => { l with hunting := true }) s)

/-- A request waiting in the hold is served once the reply has left TXD (R169). -/
def serveHeld (s : State) : State :=
  match s.link.hold with
  | some body => serveBody body (onLink (fun l => { l with hold := none, reply := none }) s)
  | none => onLink (fun l => { l with reply := none }) s

/-- REPLY SENT: the reset of an answered RESTART, or the waiting request (R169, R173). Nothing when no reply is in the
buffer (assumption log 2). -/
def execReplySent (s : State) : Result :=
  .next (if s.link.reply.isNone then s else if s.link.restartPending then restartReset s else serveHeld s)

/-- LINK SILENCE EXPIRY: in NORMAL the link becomes SILENT and alarm 96 is raised; nothing when the timer is stopped
(R174). -/
def execLinkSilenceExpiry (s : State) : Result :=
  .next (if s.link.silence.isSome ∧ s.link.state = .normal then
      raise 96 (onLink (fun l => { l with state := .silent, silence := none }) s)
    else s)

end Sys2Proof.Machine
end

