-- ==== Sys2Proof/Machine/Time.lean ====
section
/-! DEFINITION. One count of the 4 MHz base clock, which passes when no command waits: every running timer loses one count
and every running output cycle advances (section 4.3, R80, R81, assumption logs 1, 10 and 11). What a timer's end does is
the effect of its expiry command. -/

namespace Sys2Proof.Machine

/-- The count at which the next event of a running cycle falls: the end of the high time, or the end of the cycle (R80,
R81). -/
def nextBoundary (mode : ChannelMode) (x : PulseSetting) (high : Bool) : Nat :=
  match mode with
  | .duty => if high then x.h else x.p
  | .freq | .off | .count => if high then x.p else 2 * x.p

/-- A channel after one count: with 2^k counts the position advances, and it stops one short of its next boundary until
the event that belongs there (section 4.3, assumption log 11). -/
def tickChannel (mode : ChannelMode) (ch : ChannelRec) : ChannelRec :=
  match ch.active with
  | some x =>
    if ch.running && decide (ch.position + 1 < nextBoundary mode x ch.high) then
      if ch.prescale + 1 < 2 ^ x.k then { ch with prescale := ch.prescale + 1 }
      else { ch with prescale := 0, position := ch.position + 1 }
    else ch
  | none => ch

/-- The Point Table after one count. -/
def tickPoints (t : PointTable) : PointTable :=
  { t with
    inputs := Tab.mapAll (fun x => { x with timer := tickTimer x.timer }) t.inputs
    estop := { t.estop with timer := tickTimer t.estop.timer }
    key := { t.key with timer := tickTimer t.key.timer }
    supervision := t.supervision - 1 }

/-- A burner after one count. -/
def tickBurner (b : BurnerRec) : BurnerRec :=
  { b with
    stepLeft := if b.stepRunning then b.stepLeft - 1 else b.stepLeft
    disagree := tickTimer b.disagree
    grace := tickTimer b.grace
    flameTimer := b.flameTimer - 1 }

/-- The Fuel Line Controller after one count. -/
def tickFuel (f : FuelCtl) : FuelCtl :=
  { f with lines := Tab.mapAll (fun x => { x with window := tickTimer x.window }) f.lines
           periodLeft := f.periodLeft - 1 }

/-- The reporting side after one count. -/
def tickRep (r : Reporting) : Reporting :=
  { r with
    alarms := { r.alarms with minuteTimer := r.alarms.minuteTimer - 1, secondTimer := r.alarms.secondTimer - 1 }
    shift := { r.shift with timer := r.shift.timer - 1 } }

/-- The channels after one count. -/
def tickChannels (cfg : Tab 24 ChannelCfg) (chs : Tab 24 ChannelRec) : Tab 24 ChannelRec :=
  Tab.make fun c => tickChannel (cfg.nth c).mode (chs.nth c)

/-- The part after one count of the base clock. -/
def tick (s : State) : State :=
  { s with
    clockTimer := s.clockTimer - 1
    points := tickPoints s.points
    burners := Tab.mapAll tickBurner s.burners
    fuel := tickFuel s.fuel
    channels := tickChannels s.settings.channels s.channels
    cooler := { s.cooler with periodLeft := s.cooler.periodLeft - 1 }
    rep := tickRep s.rep
    link := { s.link with silence := tickTimer s.link.silence } }

end Sys2Proof.Machine
end

