-- ==== Sys2Proof/Machine/Dispatch.lean ====
section
/-! DEFINITION. One arm per command, each one call of its meaning. -/

namespace Sys2Proof.Machine

/-- The effect of a command on everything but the queue. -/
def exec (i : Instr) (s : State) : Host.Outcome State Fault Refusal :=
  match i with
  | .identify tag => Sys2Proof.Machine.execIdentify tag s
  | .status tag => Sys2Proof.Machine.execStatus tag s
  | .clearFlags tag => Sys2Proof.Machine.execClearFlags tag s
  | .setClock tag clock => Sys2Proof.Machine.execSetClock tag clock s
  | .restart tag => Sys2Proof.Machine.execRestart tag s
  | .putSamples tag count entries => Sys2Proof.Machine.execPutSamples tag count entries s
  | .readPoints tag first count => Sys2Proof.Machine.execReadPoints tag first count s
  | .forcePoint tag point value => Sys2Proof.Machine.execForcePoint tag point value s
  | .unforcePoint tag point => Sys2Proof.Machine.execUnforcePoint tag point s
  | .forceInputs tag mask data => Sys2Proof.Machine.execForceInputs tag mask data s
  | .setMode tag mode => Sys2Proof.Machine.execSetMode tag mode s
  | .burnerStart tag burner => Sys2Proof.Machine.execBurnerStart tag burner s
  | .burnerStop tag burner => Sys2Proof.Machine.execBurnerStop tag burner s
  | .resetLockout tag burner => Sys2Proof.Machine.execResetLockout tag burner s
  | .setDemand tag burner target => Sys2Proof.Machine.execSetDemand tag burner target s
  | .readBurners tag => Sys2Proof.Machine.execReadBurners tag s
  | .lineOff tag line => Sys2Proof.Machine.execLineOff tag line s
  | .lineAuto tag line => Sys2Proof.Machine.execLineAuto tag line s
  | .lineManual tag line rate => Sys2Proof.Machine.execLineManual tag line rate s
  | .resetLine tag line => Sys2Proof.Machine.execResetLine tag line s
  | .readLines tag => Sys2Proof.Machine.execReadLines tag s
  | .coolerStart tag => Sys2Proof.Machine.execCoolerStart tag s
  | .coolerStop tag => Sys2Proof.Machine.execCoolerStop tag s
  | .setFans tag refs => Sys2Proof.Machine.execSetFans tag refs s
  | .readCooler tag => Sys2Proof.Machine.execReadCooler tag s
  | .ackAlarms tag base e => Sys2Proof.Machine.execAckAlarms tag base e s
  | .shelveAlarms tag base e minutes => Sys2Proof.Machine.execShelveAlarms tag base e minutes s
  | .unshelveAlarms tag base e => Sys2Proof.Machine.execUnshelveAlarms tag base e s
  | .readAlarms tag base e offset => Sys2Proof.Machine.execReadAlarms tag base e offset s
  | .readFirstOut tag => Sys2Proof.Machine.execReadFirstOut tag s
  | .rearmFirstOut tag group => Sys2Proof.Machine.execRearmFirstOut tag group s
  | .fetchNotices tag n => Sys2Proof.Machine.execFetchNotices tag n s
  | .closeShift tag => Sys2Proof.Machine.execCloseShift tag s
  | .holdReport tag seq => Sys2Proof.Machine.execHoldReport tag seq s
  | .releaseReport tag seq => Sys2Proof.Machine.execReleaseReport tag seq s
  | .readReport tag seq part => Sys2Proof.Machine.execReadReport tag seq part s
  | .readOpenShift tag => Sys2Proof.Machine.execReadOpenShift tag s
  | .readSetting tag group inst item => Sys2Proof.Machine.execReadSetting tag group inst item s
  | .writeSetting tag group inst item value => Sys2Proof.Machine.execWriteSetting tag group inst item value s
  | .saveSettings tag => Sys2Proof.Machine.execSaveSettings tag s
  | .setLock tag level => Sys2Proof.Machine.execSetLock tag level s
  | .unknownRequestCode code tag => Sys2Proof.Machine.execUnknownRequestCode code tag s
  | .validFrame frame => Sys2Proof.Machine.execValidFrame frame s
  | .frameDiscard cause => Sys2Proof.Machine.execFrameDiscard cause s
  | .linkIdleHunt => Sys2Proof.Machine.execLinkIdleHunt s
  | .replySent => Sys2Proof.Machine.execReplySent s
  | .linkSilenceExpiry => Sys2Proof.Machine.execLinkSilenceExpiry s
  | .powerOn baud1 baud0 => Sys2Proof.Machine.execPowerOn baud1 baud0 s
  | .resetPin baud1 baud0 => Sys2Proof.Machine.execResetPin baud1 baud0 s
  | .restartReset => Sys2Proof.Machine.execRestartReset s
  | .supervisionExpiry => Sys2Proof.Machine.execSupervisionExpiry s
  | .dinEdge input high => Sys2Proof.Machine.execDinEdge input high s
  | .dinDebounceExpiry input => Sys2Proof.Machine.execDinDebounceExpiry input s
  | .keyEdge high => Sys2Proof.Machine.execKeyEdge high s
  | .keyDebounceExpiry => Sys2Proof.Machine.execKeyDebounceExpiry s
  | .estopUnhealthy => Sys2Proof.Machine.execEstopUnhealthy s
  | .estopPinHigh => Sys2Proof.Machine.execEstopPinHigh s
  | .estopHealthy => Sys2Proof.Machine.execEstopHealthy s
  | .scannerEdge n sc => Sys2Proof.Machine.execScannerEdge n sc s
  | .flameWindowExpiry n => Sys2Proof.Machine.execFlameWindowExpiry n s
  | .disagreementExpiry n => Sys2Proof.Machine.execDisagreementExpiry n s
  | .purgeExpiry n => Sys2Proof.Machine.execPurgeExpiry n s
  | .pilotTrialExpiry n => Sys2Proof.Machine.execPilotTrialExpiry n s
  | .mainTrialExpiry n => Sys2Proof.Machine.execMainTrialExpiry n s
  | .postPurgeExpiry n => Sys2Proof.Machine.execPostPurgeExpiry n s
  | .graceExpiry n => Sys2Proof.Machine.execGraceExpiry n s
  | .controlPeriodExpiry => Sys2Proof.Machine.execControlPeriodExpiry s
  | .syncEdge => Sys2Proof.Machine.execSyncEdge s
  | .feedbackWindowExpiry m => Sys2Proof.Machine.execFeedbackWindowExpiry m s
  | .cycleEnd c => Sys2Proof.Machine.execCycleEnd c s
  | .freqHalfCycle c => Sys2Proof.Machine.execFreqHalfCycle c s
  | .dutyHighEnd c => Sys2Proof.Machine.execDutyHighEnd c s
  | .countEdge c => Sys2Proof.Machine.execCountEdge c s
  | .coolerPeriodExpiry => Sys2Proof.Machine.execCoolerPeriodExpiry s
  | .shelveMinuteExpiry => Sys2Proof.Machine.execShelveMinuteExpiry s
  | .floodSecondExpiry => Sys2Proof.Machine.execFloodSecondExpiry s
  | .shiftTimerExpiry => Sys2Proof.Machine.execShiftTimerExpiry s
  | .plantClockSecond => Sys2Proof.Machine.execPlantClockSecond s
  | .storeComplete verifyGood => Sys2Proof.Machine.execStoreComplete verifyGood s

end Sys2Proof.Machine
end

