-- ==== Sys2Proof/Safety.lean ====
section
/-! DEFINITION. What it means that a step does not stop the part. -/

namespace Sys2Proof.Safety

/-- The step answers a next state. -/
def runs (s : Machine.State) : Prop := ∃ t, Machine.step s = .next t

/-- Every finite run from `s` answers a next state. -/
def safe (s : Machine.State) : Prop := ∀ k, ∃ t, Sys2Proof.core.run k s = .next t

end Sys2Proof.Safety
end

