-- ==== Sys2Proof/Machine/Invariants.lean ====
section
/-! DEFINITION. What the manual says of the records at every moment, as predicates on a state, and the records that an
entry into a burner state leaves, spelled out. The obligations state that every step keeps the predicates. -/

namespace Sys2Proof.Machine

/-! Predicates that every step keeps -/

/-- PILOTn and MAINPn stand as Table 2-5 gives for the burner state (R25). -/
def outputsFollow (s : State) : Prop :=
  ∀ n, (s.burners.nth n).pilot = pilotOn (burnerState s n) ∧ (s.burners.nth n).mainp = mainOn (burnerState s n)

/-- No burner is outside IDLE and LOCKED-OUT while a point or input bound as one of its interlocks is forced (R12). -/
def forcesAtRest (s : State) : Prop := ∀ n, (burnerState s n).atRest = false → interlockForced s n = false

/-- The pending shutdown set is empty in every mode except SHUTDOWN, holds in SHUTDOWN exactly the burners that are neither
IDLE nor LOCKED-OUT, at least one of them, since the mode is OFF once the set is empty; in OFF every burner is IDLE or
LOCKED-OUT, and the Alarm Table has been given the mode held (R112, R115 step 5, R116, R117). -/
def modeAgrees (s : State) : Prop :=
  s.rep.alarms.mode = s.kiln.mode ∧
  (s.kiln.mode ≠ .shutdown → ∀ n, s.kiln.pendingShutdown.nth n = false) ∧
  (s.kiln.mode = .shutdown → ∀ n, s.kiln.pendingShutdown.nth n = !(burnerState s n).atRest) ∧
  (s.kiln.mode = .shutdown → ∃ n, s.kiln.pendingShutdown.nth n = true) ∧
  (s.kiln.mode = .off → ∀ n, (burnerState s n).atRest = true)

/-- A line in OFF, WAITING or TRIPPED has commanded rate 0 (R55). -/
def stoppedLinesRest (s : State) : Prop := ∀ m, (lineRec s m).actual.runs = false → (lineRec s m).rate = 0

/-- The drive channel of a line in OFF, WAITING or TRIPPED is HALTED with its output low (R55). -/
def stoppedDrivesRest (s : State) : Prop :=
  ∀ m c, s.settings.channelOf (.lineDrive m) = some c → (lineRec s m).actual.runs = false →
    (s.channels.nth c).running = false ∧ (s.channels.nth c).high = false

/-- A line in STARTING, AUTO or MANUAL has a commanded rate within its [Rmin, Rmax] (R50). -/
def runningRatesLawful (s : State) : Prop :=
  ∀ m, (lineRec s m).actual.runs = true →
    (lineCfg s m).rmin ≤ (lineRec s m).rate ∧ (lineRec s m).rate ≤ (lineCfg s m).rmax

/-- The actual state of every line is the one that Table 3-5 gives it (R50, R53). -/
def linesSettled (s : State) : Prop := ∀ m, (lineRec s m).actual = lineTarget s m

/-- A line that runs as the ignition line of a burner is bound to it, configured, not ALT-SOLID, has a drive channel, is
STARTING or MANUAL, and the burner is in MAIN-TRIAL (R52). -/
def ignitionLawful (s : State) : Prop :=
  ∀ n m, s.fuel.ignition.nth n = some m →
    (lineCfg s m).burner = n ∧ (lineCfg s m).configured = true ∧ (lineCfg s m).kind ≠ .altSolid ∧
    assigned s (.lineDrive m) = true ∧ ((lineRec s m).actual = .starting ∨ (lineRec s m).actual = .manual) ∧
    burnerState s n = .mainTrial

/-- The laws of the lines that every step keeps together: stopped lines at rest with their drives HALTED low, running lines at
a lawful rate, every line and every ignition line as Table 3-5 and R52 have it (R50, R52, R53, R55). -/
def linesLawful (s : State) : Prop :=
  stoppedLinesRest s ∧ stoppedDrivesRest s ∧ runningRatesLawful s ∧ ignitionLawful s ∧ linesSettled s

/-- A line in STARTING, AUTO or MANUAL is configured and has a drive channel, and its burner is FIRING; the one exception is
the ignition line of a burner in MAIN-TRIAL (R50, R52). -/
def runningLinesLawful (s : State) : Prop :=
  ∀ m, (lineRec s m).actual.runs = true →
    (lineCfg s m).configured = true ∧ assigned s (.lineDrive m) = true ∧
    (burnerState s (lineCfg s m).burner = .firing ∨
      (burnerState s (lineCfg s m).burner = .mainTrial ∧ s.fuel.ignition.nth (lineCfg s m).burner = some m))

/-- An ALT-SOLID line is in STARTING, AUTO or MANUAL only while its burner is FIRING, the kiln mode is PRODUCTION and a line
of the same burner that is not ALT-SOLID is in AUTO or MANUAL (R50, R53). -/
def altLinesLawful (s : State) : Prop :=
  ∀ m, isAlt s m = true → (lineRec s m).actual.runs = true →
    burnerState s (lineCfg s m).burner = .firing ∧ s.kiln.mode = .production ∧
    ∃ k, (lineCfg s k).burner = (lineCfg s m).burner ∧ isAlt s k = false ∧
      ((lineRec s k).actual = .auto ∨ (lineRec s k).actual = .manual)

/-- What every taken write keeps of settings: the light-off rate of a line within its [Rmin, Rmax] and no ALT-SOLID line
named as an ignition line (R43), and each role carried by one channel at most (R77). -/
def rulesKept (cfg : Settings) : Prop :=
  (∀ m, (cfg.lines.nth m).rmin ≤ (cfg.lines.nth m).lightOff ∧ (cfg.lines.nth m).lightOff ≤ (cfg.lines.nth m).rmax) ∧
  (∀ n m, (cfg.burners.nth n).ignitionLine = some m → (cfg.lines.nth m).kind ≠ .altSolid) ∧
  (∀ c d r, (cfg.channels.nth c).owner = some r → (cfg.channels.nth d).owner = some r → c = d)

/-- The working settings, the stored image and a SAVE in flight stand as every taken write keeps settings. -/
def settingsLawful (s : State) : Prop :=
  rulesKept s.settings ∧ (∀ cfg, s.nv.image = some cfg → rulesKept cfg) ∧
  ∀ cfg, s.store.inFlight = some (.save cfg) → rulesKept cfg

/-- The cutback request is ON exactly while the cooler is PILE-UP or TRIPPED or a grate is STALLED (R107). -/
def cutbackAgrees (s : State) : Prop :=
  s.cooler.cutback = true ↔
    s.cooler.state = .pileUp ∨ s.cooler.state = .tripped ∨ ∃ n, (s.cooler.grates.nth n).state = .stalled

/-- The unacknowledged and the active count agree with the alarm records (R130). -/
def countsAgree (s : State) : Prop :=
  s.rep.alarms.unackCount = s.rep.alarms.recs.count (·.state.unacked) ∧
  s.rep.alarms.activeCount = s.rep.alarms.recs.count (·.state.active)

/-- The free, URGENT and ROUTINE lists together hold the 256 cells, each cell in one list (R146). -/
def cellsPartition (s : State) : Prop :=
  (s.rep.notices.free ++ s.rep.notices.urgent ++ s.rep.notices.routine).Perm (List.finRange 256)

/-- Every cell on URGENT or ROUTINE holds a notice, of the class its list names; and the notice link of an alarm names a cell
exactly when that cell is queued with a notice of the alarm, so no alarm has two queued cells (R146, R148). -/
def queuedCellsLinked (s : State) : Prop :=
  let q := s.rep.notices
  ∀ c,
    (c ∈ q.urgent ∨ c ∈ q.routine → ∃ x, q.cells.nth c = some x ∧ (x.cls = .urgent ↔ c ∈ q.urgent)) ∧
    ∀ a, q.link.nth a = some c ↔ (c ∈ q.urgent ∨ c ∈ q.routine) ∧ cellAlarm (q.cells.nth c) = some a

/-- ATTENTION is asserted exactly while URGENT or ROUTINE holds a cell (R152). -/
def attentionShows (s : State) : Prop :=
  s.rep.notices.attention = true ↔ s.rep.notices.urgent ≠ [] ∨ s.rep.notices.routine ≠ []

/-! Records that an entry leaves, field by field -/

/-- The burner record after an entry into LOCKED-OUT (R19, R26): outputs off, cause and time recorded, step timer, grace
timer and proven count stopped or cleared, timing set latched; scanners, dark count, air and flame timer as they were. -/
def lockedRec (cfg : BurnerCfg) (cause : LockoutCause) (clock : Nat) (b : BurnerRec) : BurnerRec :=
  { b with state := .lockedOut, pilot := false, mainp := false, cause := cause, lockoutTime := clock,
           stepRunning := false, stepLeft := 0, grace := none, proven := 0,
           latched := cfg.timing, darkLimit := cfg.timing.darkLimit }

/-- The burner record after an entry into a timed state with its outputs: the step timer loaded and running, the grace timer
stopped, the timing set latched with the proven count at most the new k (R19, R25, R30, R31, R32, R35). -/
def timedRec (cfg : BurnerCfg) (st : BurnerState) (pilot mainp : Bool) (seconds proven : Nat) (b : BurnerRec) : BurnerRec :=
  { b with state := st, pilot := pilot, mainp := mainp, stepRunning := true, stepLeft := Config.sec seconds,
           grace := none, proven := proven, latched := cfg.timing, darkLimit := cfg.timing.darkLimit }

/-- The burner record after an entry into IDLE or FIRING: no step timer; the window in progress at an IDLE entry is not
judged for false flame (R19, R25, R29, R33). -/
def untimedRec (cfg : BurnerCfg) (st : BurnerState) (mainp unjudged : Bool) (b : BurnerRec) : BurnerRec :=
  { b with state := st, pilot := false, mainp := mainp, stepRunning := false, stepLeft := 0, grace := none,
           proven := min b.proven cfg.timing.k, latched := cfg.timing, darkLimit := cfg.timing.darkLimit,
           unjudged := unjudged }

/-! Parts of a state that a command leaves -/

/-- The link of `t` is the link of `s` but for the reply buffer. -/
def replyOnly (s t : State) : Prop := t.link = { s.link with reply := t.link.reply }

/-- `s` with a reply in its reply buffer (R167). -/
def replied (code tag : Byte) (st : Status) (data : List Byte) (s : State) : State :=
  { s with link := { s.link with reply := some { code := code, tag := tag, status := st, data := data } } }

/-- Every line bound to burner `n` that is not TRIPPED is OFF in `t` (R54). -/
def linesOff (n : Fin 3) (s t : State) : Prop :=
  ∀ m, boundTo s n m = true → (lineRec s m).actual ≠ .tripped → (lineRec t m).actual = .off

/-- Alarm `a` is active in `s`. -/
def alarmActive (s : State) (a : Fin 512) : Bool := (s.rep.alarms.recs.nth a).state.active

/-- The data of a refused request: none, but for SET MODE, which carries the mode held with every status (R170). -/
def refusalData (code : Byte) (s : State) : List Byte :=
  if code = 0x18#8 then [BitVec.ofNat 8 s.kiln.mode.code] else []

/-! Notices that an event posts -/

/-- The cells that wait in a class, in their order (R146). -/
def queued (cls : NoticeClass) (s : State) : List (Fin 256) :=
  match cls with
  | .urgent => s.rep.notices.urgent
  | .routine => s.rep.notices.routine

/-- No notice was lost from `s` to `t`: the cells and links of `s` stand as R146 and R148 have them, and the lost count, not yet
at its end, is as it was (R150). -/
def nothingLost (s t : State) : Prop :=
  cellsPartition s ∧ queuedCellsLinked s ∧ s.rep.notices.lost < 65535 ∧ t.rep.notices.lost = s.rep.notices.lost

/-- Notice `b` of class `cls` was posted from `s` to `t`: unless a notice was lost, its cell stands behind all that waited in
the class, with both times at the plant clock (R147). -/
def posted (b : NoticeBody) (cls : NoticeClass) (s t : State) : Prop :=
  nothingLost s t → queued cls s <+: queued cls t ∧
    ∃ c ∈ (queued cls t).drop (queued cls s).length, t.rep.notices.cells.nth c =
      some { body := b, cls := cls, firstTime := s.clock, lastTime := s.clock, transitions := 1 }

/-- Every change of state from `s` to `t` of a burner, of a line, of the cooler and of the kiln mode posted its notice, with
its number as subject, its new state and its class (R38, R56, R108, R115). -/
def changesPosted (s t : State) : Prop :=
  (∀ n, let new := burnerState t n
    new ≠ burnerState s n → posted (.burner n new) (if new = .lockedOut then .urgent else .routine) s t) ∧
  (∀ m, let new := (lineRec t m).actual
    new ≠ (lineRec s m).actual → posted (.line m new) (if new = .tripped then .urgent else .routine) s t) ∧
  (let new := t.cooler.state
   new ≠ s.cooler.state →
     posted (.cooler new) (if new = .pileUp ∨ new = .tripped then .urgent else .routine) s t) ∧
  (let new := t.kiln.mode
   new ≠ s.kiln.mode → posted (.mode new) (if new = .upset then .urgent else .routine) s t)

/-- The Notice Queues of `s` once state `st` of alarm `a` is handed to them: changed in the queued cell of the alarm, or filed
in the first free cell, behind all that waits in the class of the alarm's priority (R131, R147, R148). -/
def handedTo (a : Fin 512) (st : AlarmState) (s : State) : NoticeQueues :=
  let q := s.rep.notices
  let high := 2 ≤ (s.settings.alarms.nth a).priority
  match q.link.nth a, q.free with
  | some c, _ =>
    { q with cells := q.cells.put c ((q.cells.nth c).map fun y =>
        { y with body := .alarm a st, lastTime := s.clock, transitions := min 255 (y.transitions + 1) }) }
  | none, c :: free =>
    { q with
      cells := q.cells.put c (some { body := .alarm a st, cls := if high then .urgent else .routine, firstTime := s.clock,
                                     lastTime := s.clock, transitions := 1 })
      free := free
      urgent := if high then q.urgent ++ [c] else q.urgent
      routine := if high then q.routine else q.routine ++ [c]
      link := q.link.put a (some c), attention := true }
  | none, [] => q

/-- From `s` to `t` the held notices of the alarms that `due` names were released, in alarm number order, and nothing else
changed: their held marks are gone; each that is not in NORMAL has its queued cell changed, or one new cell filed in the class
of its priority, with its present state and the plant clock; every other queued cell is as it was (R133, R147, R148). -/
def releasedHeld (due : Fin 512 → Bool) (s t : State) : Prop :=
  let q := s.rep.notices
  let recs := s.rep.alarms.recs.nth
  let high := fun (a : Fin 512) => decide (2 ≤ (s.settings.alarms.nth a).priority)
  let tells := fun (a : Fin 512) => due a && (recs a).state != .normal
  let filed := (List.finRange 512).filter fun a => tells a && (q.link.nth a).isNone
  let told := fun (cls : NoticeClass) (as : List (Fin 512)) =>
    queued cls s <+: queued cls t ∧
    ((queued cls t).drop (queued cls s).length).map t.rep.notices.cells.nth = as.map fun a => some
      { body := .alarm a (recs a).state, cls := cls, firstTime := s.clock, lastTime := s.clock, transitions := 1 }
  t = { s with rep := { s.rep with alarms := { s.rep.alarms with recs := t.rep.alarms.recs }
                                   notices := t.rep.notices } } ∧
  (∀ a, t.rep.alarms.recs.nth a = { recs a with held := (recs a).held && !due a }) ∧
  (∀ a c, tells a = true → q.link.nth a = some c → t.rep.notices.cells.nth c = (q.cells.nth c).map fun y =>
    { y with body := .alarm a (recs a).state, lastTime := s.clock, transitions := min 255 (y.transitions + 1) }) ∧
  (∀ c, c ∈ q.urgent ∨ c ∈ q.routine → (∀ a, tells a = true → q.link.nth a ≠ some c) →
    t.rep.notices.cells.nth c = q.cells.nth c) ∧
  told .urgent (filed.filter high) ∧ told .routine (filed.filter fun a => !high a)

/-! What a command hands to a channel -/

/-- Line `m` has been handed the frequency of its commanded rate, floor(c × Kf / 1000) cHz by the Kf in force and at least 1,
or a halt at rate 0, on the channel record that `was` gives; drive limit and DRIVE LIMIT follow the marker (R44, R55, R79). -/
def lineDriven (m : Fin 6) (was : Fin 24 → ChannelRec) (t : State) : Prop :=
  let x := lineRec t m
  let f := if x.rate = 0 then 0 else max 1 (x.rate * (t.fuel.factors.nth m).kf / 1000)
  (∀ c, t.settings.channelOf (.lineDrive m) = some c →
    t.channels.nth c = handFreq (t.settings.channels.nth c) f (was c) ∧ x.driveLimit = (t.channels.nth c).marker) ∧
  (t.settings.channelOf (.lineDrive m) = none → x.driveLimit = .none) ∧
  alarmActive t (lineAlarm m 3) = (x.driveLimit != .none)

/-- Grate `n` has been handed s × Kd cHz of its speed s on the channel record that `was` gives, which is its window speed; its
drive limit is the marker (R95). -/
def grateDriven (n : Fin 3) (was : Fin 24 → ChannelRec) (t : State) : Prop :=
  let g := t.cooler.grates.nth n
  g.windowSpeed = g.speed ∧
  (∀ c, t.settings.channelOf (.grateDrive n) = some c →
    t.channels.nth c = handFreq (t.settings.channels.nth c) (g.speed * t.settings.cooler.kd) (was c) ∧
    g.driveLimit = (t.channels.nth c).marker) ∧
  (t.settings.channelOf (.grateDrive n) = none → g.driveLimit = .none)

/-- The drive of grate `n` is halted on the channel record that `was` gives (R84, R99). -/
def grateHalted (n : Fin 3) (was : Fin 24 → ChannelRec) (t : State) : Prop :=
  (t.cooler.grates.nth n).driveLimit = .none ∧
  ∀ c, t.settings.channelOf (.grateDrive n) = some c →
    t.channels.nth c = handFreq (t.settings.channels.nth c) 0 (was c)

/-- Fan `n` has been handed its applied reference r on the channel record that `was` gives: the DUTY setting with
H = floor(P × r / 1000), AUTO taken as k 0 (R81, R101). -/
def fanHanded (n : Fin 6) (was : Fin 24 → ChannelRec) (t : State) : Prop :=
  ∀ c, t.settings.channelOf (.fan n) = some c →
    let cfg := t.settings.channels.nth c
    let r := min (t.cooler.fans.nth n).applied 1000
    t.channels.nth c = handTo cfg.mode
      { k := match cfg.prescaler with | some k => k.val | none => 0
        p := cfg.dutyPeriod, h := cfg.dutyPeriod * r / 1000 } (was c)

/-- Every fan whose applied reference changed from `s` to `t` has been handed it, and the channel of any other fan is as it was
(R101). -/
def fansHanded (s t : State) : Prop :=
  ∀ n, ((t.cooler.fans.nth n).applied ≠ (s.cooler.fans.nth n).applied → fanHanded n s.channels.nth t) ∧
    ((t.cooler.fans.nth n).applied = (s.cooler.fans.nth n).applied →
      ∀ c, s.settings.channelOf (.fan n) = some c → t.channels.nth c = s.channels.nth c)

/-! What a changed value does to the limits of its point -/

/-- The limits of point `p` have been evaluated with the value the point has in `t`: each present one by R7 from the condition
it had in `s`, and a condition that changed raised or cleared its alarm (R7, R8). -/
def limitsEvaluated (p : Fin 96) (s t : State) : Prop :=
  let cfg := s.settings.points.nth p
  let x := t.points.points.nth p
  let value := (x.force.getD x.underlying).toInt
  ∀ j : Fin 4,
    let limit := (cfg.limits.nth j).value.toInt
    let was := (s.points.points.nth p).cond.nth j
    let next :=
      if j.val < 2 then (if was then decide (limit - cfg.deadband ≤ value) else decide (limit ≤ value))
      else (if was then decide (value ≤ limit + cfg.deadband) else decide (value ≤ limit))
    x.cond.nth j = (if (cfg.limits.nth j).present then next else was) ∧
    (was ≠ x.cond.nth j → alarmActive t (limitAlarm p j) = x.cond.nth j)

/-! Frames: what a command leaves alone -/

/-- Alarms that a lost notice and the flood it may bring can raise beside any other effect (R141, R150). -/
def byLoss (a : Fin 512) : Prop := a = 97 ∨ a = 100

/-- The alarms of the fuel lines, 48 to 71. -/
def lineAlarms (a : Fin 512) : Prop := 48 ≤ a.val ∧ a.val < 72

/-- The alarms of burner `n`, 16n to 16n + 15. -/
def burnerAlarms (n : Fin 3) (a : Fin 512) : Prop := 16 * n.val ≤ a.val ∧ a.val < 16 * n.val + 16

/-- Every alarm that `p` does not name is in the state it was in. -/
def alarmsKept (p : Fin 512 → Prop) (s t : State) : Prop :=
  ∀ a, ¬ p a → (t.rep.alarms.recs.nth a).state = (s.rep.alarms.recs.nth a).state

/-- The mode held and the mode given to the Alarm Table are as they were, or the Alarm Table has been given the mode now held
(R115 step 5). -/
def modeGiven (s t : State) : Prop :=
  (t.kiln.mode = s.kiln.mode ∧ t.rep.alarms.mode = s.rep.alarms.mode) ∨ t.rep.alarms.mode = t.kiln.mode

/-- What no raise, clear or notice touches on the reporting side: the ring, the shift timer and a pending close, every
sticky flag but NOTICE-LOST, and the Alarm Table's two timers; and the mode given to the Alarm Table, which changes with
the mode held alone. -/
def repKept (s t : State) : Prop :=
  t.rep.shift = { s.rep.shift with openRec := t.rep.shift.openRec, carries := t.rep.shift.carries } ∧
  t.rep.sticky = { s.rep.sticky with noticeLost := t.rep.sticky.noticeLost } ∧
  t.rep.alarms.minuteTimer = s.rep.alarms.minuteTimer ∧ t.rep.alarms.secondTimer = s.rep.alarms.secondTimer ∧
  modeGiven s t

/-- The control period of the Fuel Line Controller, and every line's CV and Kf in force, are as they were. -/
def fuelKept (s t : State) : Prop :=
  t.fuel = { s.fuel with lines := t.fuel.lines, demands := t.fuel.demands, ignition := t.fuel.ignition }

/-- Every channel that no line owns is as it was. -/
def channelsKept (s t : State) : Prop :=
  ∀ c, (∀ m, (s.settings.channels.nth c).owner ≠ some (.lineDrive m) ∧
      (s.settings.channels.nth c).owner ≠ some (.lineFeedback m)) →
    t.channels.nth c = s.channels.nth c

/-- Nothing but lines, demand records, the lines' channels and what they report has changed. -/
def lineFrame (s t : State) : Prop :=
  t = { s with fuel := t.fuel, channels := t.channels, rep := t.rep } ∧ fuelKept s t ∧ channelsKept s t ∧ repKept s t ∧
    alarmsKept (fun a => lineAlarms a ∨ byLoss a) s t

/-- Burner `n` came to rest from `s` to `t`: its state changed to IDLE or LOCKED-OUT (R117). -/
def cameToRest (n : Fin 3) (s t : State) : Prop :=
  burnerState t n ≠ burnerState s n ∧ (burnerState t n).atRest = true

/-- The mode and the pending shutdown set follow the burners from `s` to `t`: in PRODUCTION the mode is UPSET when burner 0
entered LOCKED-OUT (R118); in SHUTDOWN every burner that came to rest leaves the set, and the mode is OFF when the last of
them left it (R117); in every other case mode and set are as they were (R118, Table 6-3). -/
def kilnFollows (s t : State) : Prop :=
  let waits := fun n => s.kiln.pendingShutdown.nth n = true
  let upset := burnerState s 0 ≠ .lockedOut ∧ burnerState t 0 = .lockedOut
  let completed := (∃ n, waits n) ∧ ∀ n, waits n → cameToRest n s t
  match s.kiln.mode with
  | .production =>
    (upset → t.kiln = { mode := .upset, pendingShutdown := Tab.fill false }) ∧ (¬ upset → t.kiln = s.kiln)
  | .shutdown =>
    (completed → t.kiln = { mode := .off, pendingShutdown := Tab.fill false }) ∧
    (¬ completed → t.kiln.mode = .shutdown ∧
      ∀ n, t.kiln.pendingShutdown.nth n = true ↔ waits n ∧ ¬ cameToRest n s t)
  | .off | .heatUp | .upset => t.kiln = s.kiln

/-- Nothing but burner `n`, the lines and their channels, the kiln mode as it follows the burner, and what they report has
changed. -/
def burnerFrame (n : Fin 3) (s t : State) : Prop :=
  t = { s with burners := t.burners, fuel := t.fuel, channels := t.channels, kiln := t.kiln, rep := t.rep } ∧
    (∀ k, k ≠ n → t.burners.nth k = s.burners.nth k) ∧ fuelKept s t ∧ channelsKept s t ∧ repKept s t ∧
    alarmsKept (fun a => burnerAlarms n a ∨ lineAlarms a ∨ a = 86 ∨ byLoss a) s t ∧ kilnFollows s t

/-- Nothing but points, burners, lines and their channels, the kiln mode as it follows the burners, and what they report has
changed. -/
def pointFrame (s t : State) : Prop :=
  t = { s with points := { s.points with points := t.points.points }, burners := t.burners, fuel := t.fuel,
               channels := t.channels, kiln := t.kiln, rep := t.rep } ∧
    fuelKept s t ∧ channelsKept s t ∧ repKept s t ∧ kilnFollows s t

/-- Nothing but the reporting side has changed, and there only alarms of `p`, notices and their account. -/
def reportFrame (p : Fin 512 → Prop) (s t : State) : Prop :=
  t = { s with rep := t.rep } ∧ repKept s t ∧ alarmsKept (fun a => p a ∨ byLoss a) s t

/-! What a close of the shift does -/

/-- Slot `i` is the one a close takes: the lowest-numbered EMPTY one, else the FULL one of hold count 0 with the lowest
sequence number (R158 step 3). -/
def takesSlot (ring : Tab 8 Slot) (i : Fin 8) : Prop :=
  ((ring.nth i).report = none ∧ ∀ j, j < i → (ring.nth j).report ≠ none) ∨
    ((∀ j, (ring.nth j).report ≠ none) ∧ (ring.nth i).hold = 0 ∧
      ∀ j, (ring.nth j).hold = 0 → j ≠ i → slotSeq (ring.nth i) < slotSeq (ring.nth j))

/-- Every slot is FULL and held, so that no close can be performed (R159). -/
def ringHeld (ring : Tab 8 Slot) : Prop := ∀ i, (ring.nth i).report ≠ none ∧ (ring.nth i).hold ≠ 0

/-- Shift record `y` is `x` but for the raises and the notices lost, which the notices of an event may add to (R144, R150). -/
def recordKept (x y : ShiftRecord) : Prop := y = { x with raises := y.raises, noticesLost := y.noticesLost }

/-- The report of a close in `s`: the open record with end time, cause and substitution rate, and DEFERRED-CLOSE at a deferred
close (R158 steps 1 and 2, R159). That the rate is not clamped to 1,000 is assumption log 46. -/
def reportOf (cause : CloseCause) (deferred : Bool) (s : State) : ShiftRecord :=
  let x := s.rep.shift.openRec
  { x with endTime := s.clock, cause := cause, deferredClose := x.deferredClose || deferred
           substitution := if x.totalMJ = 0 then 0 else x.altMJ * 1000 / x.totalMJ }

/-- From `s` to `t` a close was performed into slot `i`: the report stands there with hold count 0 and is handed to the store,
the next record is open with every count 0 and the carries as they were, no close is pending, the SHIFT notice is posted, a
deferred close clears alarm 102, and nothing else changed but by a lost notice (R158, R159, R178, R180). The end time and rate
of the new open record are assumption log 47, the copy of a write in progress is assumption log 34. -/
def shiftClosed (cause : CloseCause) (deferred : Bool) (i : Fin 8) (s t : State) : Prop :=
  let sh := s.rep.shift
  let y := reportOf cause deferred s
  let opened := ShiftRecord.fresh (sh.openRec.seq + 1) s.clock
  let idle := s.store.inFlight = none
  let c := chooseCopy s.nv.copies
  let filed := { s with
    rep := { s.rep with shift := { sh with
      ring := sh.ring.put i { report := some y, hold := 0 }, openRec := opened, closePending := .none } }
    store := if idle then { s.store with inFlight := some (.report y c) } else { s.store with pendingReport := some y }
    nv := if idle then { s.nv with copies := s.nv.copies.put c none } else s.nv }
  reportFrame (fun a => deferred = true ∧ a = 102) filed t ∧ t.rep.shift.carries = sh.carries ∧
  recordKept opened t.rep.shift.openRec ∧ (nothingLost s t → t.rep.shift.openRec = opened) ∧
  posted (.shift sh.openRec.seq cause) .routine s t ∧ (deferred = true → alarmActive t 102 = false)

/-- From `s` to `t` a due close was deferred: the cause is pending, alarm 102 is raised, and nothing else changed but by that
raise (R159). -/
def shiftDeferred (cause : CloseCause) (s t : State) : Prop :=
  let pending := { s with rep := { s.rep with shift := { s.rep.shift with closePending := cause } } }
  reportFrame (· = 102) pending t ∧ t.rep.shift.carries = s.rep.shift.carries ∧
  recordKept s.rep.shift.openRec t.rep.shift.openRec ∧ alarmActive t 102 = true

/-! What a taken write does at once -/

/-- What a taken write of item `item` of `a` does at once, from `s` to `t`, beyond the setting itself: the latch at rest
(R19), conditions and limits of a point (R2), rates, availability and WEIGH STALE of a line (R44), T and SECONDARY AIR
STALE (R45, R46), the channel cleared and its owners told (R78): a line's availability (R50) and feedback window (R68), a
grate, its feedback and a fan (R106); the fans (R92, R102), a held notice released (R121, R125, R133), the silence timer
(R174). `w` is `s` with the settings as written, from which all else that changes follows. -/
def writeActs (a : SettingAddr) (item : Nat) (s t : State) : Prop :=
  let cfg := t.settings
  let w := { s with settings := cfg }
  match a with
  | .burner n =>
    let b := s.burners.nth n
    let timing := (cfg.burners.nth n).timing
    let latched := { b with latched := timing, darkLimit := timing.darkLimit, proven := min b.proven timing.k }
    (item ≤ 10 → b.state.atRest = true → t = { w with burners := s.burners.put n latched }) ∧
    (item ≤ 10 → b.state.atRest = false → t = w) ∧
    (11 ≤ item → item ≤ 13 → (t.burners.nth n).air = airOf t n ∧ burnerFrame n w t) ∧
    (14 ≤ item → t = w)
  | .line m =>
    let x := lineRec s m
    let line := lineCfg t m
    lineFrame w t ∧
    (item ≤ 2 → ignitionLawful s → (lineRec t m).actual = lineTarget t m) ∧
    (item = 4 ∨ item = 5 →
      (lineRec t m).manualRate = clamp x.manualRate line.rmin line.rmax ∧
      (lineRec t m).rate = (if x.actual.runs then clamp x.rate line.rmin line.rmax else x.rate) ∧
      (lineRec t m).actual = x.actual ∧ (x.actual.runs = true → lineDriven m s.channels.nth t) ∧
      ∀ k, k ≠ m → lineRec t k = lineRec s k) ∧
    (item = 15 → line.weighPoint = none → alarmActive t (lineAlarm m 1) = false) ∧
    (item = 3 ∨ 6 ≤ item → t = { w with rep := t.rep } ∧ (item ≠ 15 → t = w))
  | .demand n =>
    let d := s.fuel.demands.nth n
    (item = 0 → t = { w with fuel := { s.fuel with
      demands := s.fuel.demands.put n { d with target := min d.target (cfg.demand.nth n).maxHeat } } }) ∧
    (item ≠ 0 → t.fuel.demands = s.fuel.demands) ∧
    (item = 2 ∨ item = 3 → lineFrame w t) ∧
    (item = 7 → reportFrame (· = 86) w t) ∧
    (item ≠ 0 → item ≠ 2 → item ≠ 3 → item ≠ 7 → t = w) ∧
    (item = 7 → cfg.trim.airPoint = none → alarmActive t 86 = false)
  | .point p =>
    let x := s.points.points.nth p
    let y := t.points.points.nth p
    (item ≤ 1 → t = w) ∧
    (2 ≤ item → t = { w with points := { s.points with points := s.points.points.put p y }, rep := t.rep } ∧
      y = { x with cond := y.cond } ∧ ∀ j,
      let limit := (cfg.points.nth p).limits.nth j
      y.cond.nth j =
        (if limit.present = false then false
         else if x.fresh then
           limitNext (highLimit j) (x.cond.nth j) x.value.toInt limit.value.toInt (cfg.points.nth p).deadband
         else x.cond.nth j) ∧
      (x.cond.nth j ≠ y.cond.nth j → alarmActive t (limitAlarm p j) = y.cond.nth j))
  | .alarm x =>
    let due := (s.rep.alarms.recs.nth x).held = true ∧ heldBack (env t) x s.rep.alarms = false
    t = { w with rep := t.rep } ∧ (¬ due → t = w) ∧ (due → ¬ byLoss x → (t.rep.alarms.recs.nth x).held = false)
  | .channel c =>
    let old := s.settings.channels.nth c
    let new := cfg.channels.nth c
    let given := fun (r : Role) => item ≤ 1 ∧ old.owner ≠ new.owner ∧ new.owner = some r
    let taken := fun (r : Role) => item ≤ 1 ∧ old.owner ≠ new.owner ∧ old.owner = some r
    let cleared : ChannelRec :=
      { active := none, staged := none, running := false, high := false, position := 0, prescale := 0, emitted := 0,
        edges := 0, marker := .none }
    let driven := (∃ m, given (.lineDrive m) ∧ (lineRec t m).actual.runs = true) ∨
      (∃ n, given (.grateDrive n) ∧ (t.cooler.grates.nth n).state = .running) ∨ ∃ n, given (.fan n)
    t = { w with channels := t.channels, fuel := t.fuel, cooler := t.cooler, rep := t.rep } ∧
    (2 ≤ item ∨ old = new → t = w) ∧
    (item ≤ 1 → old ≠ new → ¬ driven → t.channels.nth c = cleared) ∧
    (∀ m, given (.lineDrive m) ∨ taken (.lineDrive m) → ignitionLawful s → (lineRec t m).actual = lineTarget t m) ∧
    (∀ m, given (.lineDrive m) → (lineRec s m).actual.runs = false → (lineRec t m).actual.runs = true →
      lineDriven m (fun _ => cleared) t) ∧
    (∀ m, given (.lineFeedback m) → linesLawful s → (lineRec s m).actual = .auto ∨ (lineRec s m).actual = .manual →
      lineRec t m = { lineRec s m with window := some (Config.sec (lineCfg t m).window), faults := 0 } ∧
      ∀ d, cfg.channelOf (.lineDrive m) = some d → t.channels.nth d = { s.channels.nth d with emitted := 0 }) ∧
    (∀ n, given (.grateDrive n) → s.cooler.state = .running ∨ s.cooler.state = .pileUp →
      (s.cooler.grates.nth n).state = .stopped → (t.cooler.grates.nth n).state = .running ∧
        grateDriven n (fun _ => cleared) t) ∧
    (∀ n, given (.grateFeedback n) → (s.cooler.grates.nth n).state = .running →
      (t.cooler.grates.nth n).windowValid = false) ∧
    (∀ n, given (.fan n) → fanHanded n (fun _ => cleared) t) ∧
    ((∀ m, ¬ given (.lineDrive m) ∧ ¬ taken (.lineDrive m) ∧ ¬ given (.lineFeedback m)) → t.fuel = s.fuel) ∧
    ((∀ n, ¬ given (.grateDrive n) ∧ ¬ given (.grateFeedback n)) → t.cooler = s.cooler)
  | .general =>
    let time := cfg.general.silenceTime
    t = { w with
      link := { s.link with silence :=
        if item ≠ 0 then s.link.silence else if time = 0 then none
        else if s.link.state = .normal then some (Config.sec time) else s.link.silence } }
  | .coolerCommon =>
    t = { w with channels := t.channels, cooler := { s.cooler with fans := t.cooler.fans } } ∧
    (item = 10 ∨ item = 13 → (∀ n, (t.cooler.fans.nth n).applied = appliedOf t n) ∧ fansHanded s t) ∧
    (item ≠ 10 → item ≠ 13 → t = w)
  | .fuelCommon | .grate _ | .alarmCommon => t = w

end Sys2Proof.Machine
end

