-- ==== Sys2Proof/WellFormed.lean ====
section
/-! DEFINITION. Which commands the block's senders can send: the checks that the operand types do not already make. -/

namespace Sys2Proof

/-- A command is well formed when its variable-length operands have the shape its row gives: PUT SAMPLES carries as many
entries as it counts, 1 to 24 (R3); SET FANS carries six references (R102); VALID FRAME carries a frame that R168 takes;
UNKNOWN REQUEST CODE carries a code that Table 10-7 does not list (R170). Every other command is well formed by its
operand types. `exec` is total on the ill-formed ones too: it gives them the refusal the manual gives. -/
def Instr.wf : Instr → Bool
  | .putSamples _ count entries => 1 ≤ count.toNat && count.toNat ≤ 24 && entries.length == count.toNat
  | .setFans _ refs => refs.length == 6
  | .validFrame frame => (Machine.frameBody frame).isSome
  | .unknownRequestCode code _ => !Machine.listedCodes.contains code
  | _ => true

end Sys2Proof
end

