-- ==== Sys2Proof/Requests.lean ====
section
/-! DEFINITION. The request frames that carry the host requests: the body of each request as Table 10-7 lays it out. -/

namespace Sys2Proof

/-- The bytes of one sample entry: point (1), value (4), BAD marker (1) (Table 10-7). -/
def SampleEntry.bytes (e : SampleEntry) : List Byte := e.point :: Machine.beBytes 4 e.value.toNat ++ [e.bad]

/-- The body of the frame that carries a request: code, tag, parameters (R167, Table 10-7); none for a command that is no
request. -/
def Instr.body (c : Instr) : Option (List Byte) :=
  let two := fun (h : Half) => Machine.beBytes 2 h.toNat
  let four := fun (w : Word) => Machine.beBytes 4 w.toNat
  match c with
  | .identify tag => some [0x01, tag]
  | .status tag => some [0x02, tag]
  | .clearFlags tag => some [0x03, tag]
  | .setClock tag clock => some ([0x04, tag] ++ four clock)
  | .restart tag => some [0x05, tag]
  | .putSamples tag count entries => some ([0x10, tag, count] ++ entries.flatMap SampleEntry.bytes)
  | .readPoints tag first count => some [0x11, tag, first, count]
  | .forcePoint tag point value => some ([0x12, tag, point] ++ four value)
  | .unforcePoint tag point => some [0x13, tag, point]
  | .forceInputs tag mask data => some ([0x14, tag] ++ two mask ++ two data)
  | .setMode tag mode => some [0x18, tag, mode]
  | .burnerStart tag burner => some [0x20, tag, burner]
  | .burnerStop tag burner => some [0x21, tag, burner]
  | .resetLockout tag burner => some [0x22, tag, burner]
  | .setDemand tag burner target => some ([0x23, tag, burner] ++ four target)
  | .readBurners tag => some [0x24, tag]
  | .lineOff tag line => some [0x28, tag, line]
  | .lineAuto tag line => some [0x29, tag, line]
  | .lineManual tag line rate => some ([0x2A, tag, line] ++ two rate)
  | .resetLine tag line => some [0x2B, tag, line]
  | .readLines tag => some [0x2C, tag]
  | .coolerStart tag => some [0x30, tag]
  | .coolerStop tag => some [0x31, tag]
  | .setFans tag refs => some ([0x32, tag] ++ refs.flatMap two)
  | .readCooler tag => some [0x33, tag]
  | .ackAlarms tag base e => some ([0x38, tag] ++ two base ++ [e])
  | .shelveAlarms tag base e minutes => some ([0x39, tag] ++ two base ++ [e] ++ two minutes)
  | .unshelveAlarms tag base e => some ([0x3A, tag] ++ two base ++ [e])
  | .readAlarms tag base e offset => some ([0x3B, tag] ++ two base ++ [e] ++ two offset)
  | .readFirstOut tag => some [0x3C, tag]
  | .rearmFirstOut tag group => some [0x3D, tag, group]
  | .fetchNotices tag n => some [0x40, tag, n]
  | .closeShift tag => some [0x48, tag]
  | .holdReport tag seq => some ([0x49, tag] ++ four seq)
  | .releaseReport tag seq => some ([0x4A, tag] ++ four seq)
  | .readReport tag seq part => some ([0x4B, tag] ++ four seq ++ [part])
  | .readOpenShift tag => some [0x4C, tag]
  | .readSetting tag group inst item => some ([0x50, tag, group] ++ two inst ++ [item])
  | .writeSetting tag group inst item value => some ([0x51, tag, group] ++ two inst ++ [item] ++ four value)
  | .saveSettings tag => some [0x52, tag]
  | .setLock tag level => some [0x53, tag, level]
  | .unknownRequestCode code tag => some [code, tag]
  | .validFrame _ | .frameDiscard _ | .linkIdleHunt | .replySent | .linkSilenceExpiry => none
  | .powerOn _ _ | .resetPin _ _ | .restartReset => none
  | .supervisionExpiry | .dinEdge _ _ | .dinDebounceExpiry _ | .keyEdge _ | .keyDebounceExpiry => none
  | .estopUnhealthy | .estopPinHigh | .estopHealthy => none
  | .scannerEdge _ _ | .flameWindowExpiry _ | .disagreementExpiry _ | .purgeExpiry _ | .pilotTrialExpiry _ => none
  | .mainTrialExpiry _ | .postPurgeExpiry _ | .graceExpiry _ => none
  | .controlPeriodExpiry | .syncEdge | .feedbackWindowExpiry _ => none
  | .cycleEnd _ | .freqHalfCycle _ | .dutyHighEnd _ | .countEdge _ => none
  | .coolerPeriodExpiry | .shelveMinuteExpiry | .floodSecondExpiry | .shiftTimerExpiry | .plantClockSecond => none
  | .storeComplete _ => none

/-- The length of the parameters that Table 10-7 gives a request code; none for a code it does not list. The entries of PUT
SAMPLES are counted by its first parameter. -/
def parameterBytes (code : Byte) (ps : List Byte) : Option Nat :=
  match code.toNat with
  | 0x01 | 0x02 | 0x03 | 0x05 | 0x24 | 0x2C | 0x30 | 0x31 | 0x33 | 0x3C | 0x48 | 0x4C | 0x52 => some 0
  | 0x13 | 0x18 | 0x20 | 0x21 | 0x22 | 0x28 | 0x29 | 0x2B | 0x3D | 0x40 | 0x53 => some 1
  | 0x11 => some 2
  | 0x2A | 0x38 | 0x3A => some 3
  | 0x04 | 0x14 | 0x49 | 0x4A | 0x50 => some 4
  | 0x12 | 0x23 | 0x39 | 0x3B | 0x4B => some 5
  | 0x51 => some 8
  | 0x32 => some 12
  | 0x10 => some (1 + 6 * (ps.headD 0).toNat)
  | _ => none

end Sys2Proof
end

