-- ==== Sys2Proof/Certificates/Slice0/Obligations.lean ====
section
/-! DEFINITION. The statements for the provers. `c` is a command, `s` the state it is taken in, `t` the state it leaves.
Statements of requests have the premise that no answered RESTART waits for its reset (assumption log 4), and they hold also
while a reply is being sent: a request command stands for the request as it is served and puts its reply in the reply buffer
in place of what stood there (the model's choice, assumption log 3). -/

open Sys2Proof Sys2Proof.Machine

/-! Steps, queue, table words -/

/-- A step takes the command at the front of the queue and runs it on the state with the queue's rest. -/
def Obligations.StepRunsFrontCommand : Prop :=
  ∀ (c : Instr) (rest : List Instr) (s : State), s.pending = c :: rest → step s = exec c { s with pending := rest }

/-- On an empty queue one count of the base clock passes: timers lose one count and nothing but timers and the positions of
running output cycles changes (the model's choice, assumption log 1). A HALTED channel is as it was; a running cycle advances
one position in 2^k counts, counted from the cycle's start (assumption log 10), up to one short of its next event, the end of
its high time or of the cycle (assumption log 11). -/
def Obligations.EmptyQueueTicks : Prop :=
  ∀ s : State, s.pending = [] → ∃ t, step s = .next t ∧
    t = { s with clockTimer := s.clockTimer - 1, points := t.points, burners := t.burners, fuel := t.fuel,
                 channels := t.channels, cooler := { s.cooler with periodLeft := s.cooler.periodLeft - 1 },
                 rep := t.rep, link := { s.link with silence := s.link.silence.map (· - 1) } } ∧
    (∀ p, t.points.points.nth p = s.points.points.nth p) ∧
    (∀ i, t.points.inputs.nth i =
      { s.points.inputs.nth i with timer := (s.points.inputs.nth i).timer.map (· - 1) }) ∧
    t.points.estop = { s.points.estop with timer := s.points.estop.timer.map (· - 1) } ∧
    t.points.key = { s.points.key with timer := s.points.key.timer.map (· - 1) } ∧
    t.points.supervision = s.points.supervision - 1 ∧
    (∀ n, t.burners.nth n =
      { s.burners.nth n with
        stepLeft := if (s.burners.nth n).stepRunning then (s.burners.nth n).stepLeft - 1 else (s.burners.nth n).stepLeft
        disagree := (s.burners.nth n).disagree.map (· - 1)
        grace := (s.burners.nth n).grace.map (· - 1)
        flameTimer := (s.burners.nth n).flameTimer - 1 }) ∧
    (∀ m, lineRec t m = { lineRec s m with window := (lineRec s m).window.map (· - 1) }) ∧
    t.fuel = { s.fuel with lines := t.fuel.lines, periodLeft := s.fuel.periodLeft - 1 } ∧
    (∀ c,
      let ch := s.channels.nth c
      (ch.running = false ∨ ch.active = none → t.channels.nth c = ch) ∧
      ∀ x, ch.running = true → ch.active = some x →
        let next := if (s.settings.channels.nth c).mode = .duty then (if ch.high then x.h else x.p)
                    else (if ch.high then x.p else 2 * x.p)
        t.channels.nth c =
          if next ≤ ch.position + 1 then ch
          else if ch.prescale + 1 < 2 ^ x.k then { ch with prescale := ch.prescale + 1 }
          else { ch with prescale := 0, position := ch.position + 1 }) ∧
    t.rep =
      { s.rep with
        alarms := { s.rep.alarms with
          minuteTimer := s.rep.alarms.minuteTimer - 1, secondTimer := s.rep.alarms.secondTimer - 1 }
        shift := { s.rep.shift with timer := s.rep.shift.timer - 1 } }

/-- No row of the table gives bits: no word spells a command. -/
def Obligations.NoTableWordSpellsACommand : Prop :=
  ∀ (nbits w : Nat) (s : State), decodeTableWord nbits w = none ∧ s.withFetchWord nbits w = s

/-- Every command answers a next state in every state, so every finite run goes on. -/
def Obligations.EveryCommandRuns : Prop :=
  (∀ (c : Instr) (s : State), ∃ t, exec c s = .next t) ∧ ∀ s, Safety.safe s

/-- No command touches the queue of waiting commands, the resets included (the queue is the model's own, assumption log 3;
that a reset keeps it, assumption log 34). -/
def Obligations.CommandsKeepTheQueue : Prop :=
  ∀ (c : Instr) (s t : State), exec c s = .next t → t.pending = s.pending

/-! Link: frames, service, silence -/

/-- A request served as a frame and the same request as a command leave the same state: with the receiver hunting, the hold
and the reply buffer empty and no reset to come, the frame of a well-formed request does what the request does once the
frame has been heard. No byte of a request is dropped. A request code that Table 10-7 does not list is answered UNKNOWN whatever
follows it, then a body of another length than the table's LENGTH, SET MODE with the mode held, and neither changes anything
else. A request command stands for the request as it is served (the model's choice, assumption log 3). -/
def Obligations.FrameCarriesRequest : Prop :=
  ∀ s : State, s.link.hunting = true → s.link.hold = none → s.link.reply = none → s.link.restartPending = false →
    (∀ (c : Instr) (body : List Byte), c.body = some body → c.wf = true →
      exec (.validFrame (requestFrame body)) s = exec c (frameHeard s)) ∧
    ∀ (code tag : Byte) (ps : List Byte), ps.length ≤ 248 →
      let frame := Instr.validFrame (requestFrame (code :: tag :: ps))
      (parameterBytes code ps = none → exec frame s = .next (replied code tag .unknown [] (frameHeard s))) ∧
      ∀ k, parameterBytes code ps = some k → ps.length ≠ k →
        exec frame s = .next (replied code tag .length (refusalData code s) (frameHeard s))

/-- The receiver reads back the body of every request frame of a legal length, and takes no frame with another marker, an
illegal length byte or another CRC: it takes the bytes that are the request frame of a body of 2 to 250 bytes, and no
others. The bytes sent for a reply are its marker, its length in two bytes, code, tag, status and data, and the CRC over
length and body; that the CRC of a reply covers both length bytes and the body is assumption log 48. A character is a start
bit, 8 data bits least significant first and a stop bit; a receiver reads it back and takes none whose stop bit is low; TXD
carries a reply's bytes as characters and is high after them and with no reply. The levels of start and data bits, and a reply
without gaps, are assumption log 50. -/
def Obligations.FrameFormat : Prop :=
  (∀ body : List Byte, 2 ≤ body.length → body.length ≤ 250 → frameBody (requestFrame body) = some body) ∧
  (∀ (marker len : Byte) (rest : List Byte), marker ≠ 0xA5#8 → frameBody (marker :: len :: rest) = none) ∧
  (∀ (marker len : Byte) (rest : List Byte), (len.toNat < 2 ∨ 250 < len.toNat) → frameBody (marker :: len :: rest) = none) ∧
  (∀ body check : List Byte, body.length ≤ 255 → check.length = 2 →
    check ≠ beBytes 2 (crc (BitVec.ofNat 8 body.length :: body)).toNat →
    frameBody (0xA5#8 :: BitVec.ofNat 8 body.length :: body ++ check) = none) ∧
  (∀ frame body : List Byte, frameBody frame = some body ↔
    frame = requestFrame body ∧ 2 ≤ body.length ∧ body.length ≤ 250) ∧
  (∀ b : Byte, (character b).length = 10 ∧ readCharacter (character b) = some b) ∧
  (∀ levels : List Bool, levels.getLast? = some false → readCharacter levels = none) ∧
  (∀ bytes : List Byte, receivedBody (bytes.map character) = frameBody bytes) ∧
  ∀ s : State, (s.link.reply = none → sentFrame s = none ∧ ∀ k, txdLevel s k = true) ∧ ∀ x, s.link.reply = some x →
    let checked := beBytes 2 (3 + x.data.length) ++ [x.code, x.tag, BitVec.ofNat 8 x.status.code] ++ x.data
    let bytes := 0x5A#8 :: checked ++ beBytes 2 (crc checked).toNat
    sentFrame s = some bytes ∧
    (∀ (i : Nat) (b : Byte) (k : Fin 10), bytes[i]? = some b →
      txdLevel s (10 * i + k.val) = (if k.val = 0 then false else if k.val = 9 then true else b.getLsbD (k.val - 1))) ∧
    ∀ k, 10 * bytes.length ≤ k → txdLevel s k = true

/-- A discarded frame sets CRC-ERROR, counts one link error and stops the hunt; nothing else changes, the silence timer
included. While the receiver does not hunt, nothing is taken. That VALID_FRAME with bytes that are no frame is a discarded
frame, and that a frame counts as a whole by whether the receiver hunts at its end, are the model's choices (assumption logs
33 and 28). -/
def Obligations.BadFramesAreDiscarded : Prop :=
  ∀ (frame : List Byte) (cause : DiscardCause) (s : State),
    (s.link.hunting = true → frameBody frame = none →
      let t := { s with link := { s.link with errors := min 65535 (s.link.errors + 1), hunting := false }
                        rep := { s.rep with sticky := { s.rep.sticky with crcError := true } } }
      exec (.validFrame frame) s = .next t ∧ exec (.frameDiscard cause) s = .next t) ∧
    (s.link.hunting = false → exec (.validFrame frame) s = .next s ∧ exec (.frameDiscard cause) s = .next s)

/-- A valid frame that is not served at once: the link becomes NORMAL and the silence timer restarts; with the hold occupied
the frame is lost by OVERRUN, while a reply is being sent it waits in the hold; from SILENT alarm 96 clears. -/
def Obligations.ValidFrameIsHeard : Prop :=
  ∀ (frame body : List Byte) (s : State), s.link.hunting = true → frameBody frame = some body →
    (s.link.hold.isSome ∨ s.link.reply.isSome) →
    ∃ t, exec (.validFrame frame) s = .next t ∧ t = { s with link := t.link, rep := t.rep } ∧
      t.link = { s.link with
        state := .normal
        silence := if s.settings.general.silenceTime = 0 then s.link.silence
                   else some (Config.sec s.settings.general.silenceTime)
        hold := if s.link.hold.isSome then s.link.hold else some body } ∧
      (s.link.hold.isSome → t.rep.sticky.overrun = true) ∧
      (s.link.state = .silent → alarmActive t 96 = false) ∧
      (s.link.state ≠ .silent → t.rep =
        { s.rep with sticky := { s.rep.sticky with overrun := s.rep.sticky.overrun || s.link.hold.isSome } })

/-- The end of a reply: the hold's request is served, with UNKNOWN for a code that is not listed and LENGTH for a body of
another length than its code's, or the buffer is emptied, or an answered RESTART takes its reset; and
RESTART is answered OK with nothing else changed but the reset to come. That REPLY_SENT does the work of RESTART_RESET then,
and changes nothing with no reply in the buffer, are the model's choices (assumption logs 4 and 2). -/
def Obligations.RepliesEnd : Prop :=
  ∀ s : State,
    (s.link.reply = none → exec .replySent s = .next s) ∧
    (s.link.reply.isSome → s.link.restartPending = true → exec .replySent s = exec .restartReset s) ∧
    (s.link.reply.isSome → s.link.restartPending = false → s.link.hold = none →
      exec .replySent s = .next { s with link := { s.link with reply := none } }) ∧
    (∀ (code tag : Byte) (ps : List Byte), s.link.reply.isSome → s.link.restartPending = false →
      s.link.hold = some (code :: tag :: ps) →
      let freed := { s with link := { s.link with hold := none, reply := none } }
      exec .replySent s = .next (respond code tag (serveCode code.toNat ps freed)) ∧
      (parameterBytes code ps = none → exec .replySent s = .next (replied code tag .unknown [] freed)) ∧
      ∀ k, parameterBytes code ps = some k → ps.length ≠ k →
        exec .replySent s = .next (replied code tag .length (refusalData code s) freed)) ∧
    (∀ tag : Byte, s.link.restartPending = false →
      exec (.restart tag) s =
        .next (replied 0x05 tag .ok [] { s with link := { s.link with restartPending := true } }))

/-- After an answered RESTART every further request is lost with the reset (the model's choice of form, assumption log 4). -/
def Obligations.RequestsAreLostAfterRestart : Prop :=
  ∀ (c : Instr) (s : State), c.body.isSome → s.link.restartPending = true → exec c s = .next s

/-- The idle line starts the hunt; the silence timer's expiry in NORMAL makes the link SILENT and raises alarm 96, and
changes no burner, line, cooler or mode. The expiry of a stopped timer changes nothing (the model's choice, assumption log
2). -/
def Obligations.LinkIsWatched : Prop :=
  ∀ s : State,
    exec .linkIdleHunt s = .next { s with link := { s.link with hunting := true } } ∧
    (s.link.silence.isSome → s.link.state = .normal →
      ∃ t, exec .linkSilenceExpiry s = .next t ∧
        t = { s with link := { s.link with state := .silent, silence := none }, rep := t.rep } ∧
        alarmActive t 96 = true) ∧
    (s.link.silence = none → exec .linkSilenceExpiry s = .next s)

/-! Read requests -/

/-- IDENTIFY answers part number 7240, the logic revision (free, assumption log 9) and the rate code; STATUS answers the
29-byte status record with its counts read in the same event; UNKNOWN_REQUEST_CODE is answered UNKNOWN whatever code byte it
carries. That the unused bits of the pending shutdown set and the sticky flags are 0 is the model's choice (assumption log
56). -/
def Obligations.IdentifyAndStatusAnswer : Prop :=
  ∀ (tag code : Byte) (s : State), s.link.restartPending = false →
    exec (.identify tag) s =
      .next (replied 0x01 tag .ok [0x1C#8, 0x48#8, Config.logicRevision, BitVec.ofNat 8 s.link.rate.val] s) ∧
    exec (.unknownRequestCode code tag) s = .next (replied code tag .unknown [] s) ∧
    exec (.status tag) s = .next (replied 0x02 tag .ok (statusRecord s) s) ∧
    (statusRecord s).length = 29 ∧
    (statusRecord s).take 2 =
      [BitVec.ofNat 8 s.kiln.mode.code, BitVec.ofNat 8 (bitsOf s.kiln.pendingShutdown.toList)] ∧
    ((statusRecord s).drop 2).take 6 =
      [BitVec.ofNat 8 (burnerState s 0).code, BitVec.ofNat 8 (burnerState s 1).code,
       BitVec.ofNat 8 (burnerState s 2).code, BitVec.ofNat 8 s.cooler.state.code, BitVec.ofNat 8 s.link.state.code,
       BitVec.ofNat 8 (stickyByte s.rep.sticky)] ∧
    ((statusRecord s).drop 8).take 12 =
      beBytes 2 s.link.errors ++ beBytes 2 s.rep.notices.lost ++ beBytes 2 s.rep.alarms.unackCount ++
        beBytes 2 s.rep.alarms.activeCount ++ beBytes 2 s.rep.notices.urgent.length ++
        beBytes 2 s.rep.notices.routine.length ∧
    ((statusRecord s).drop 20).take 5 =
      [BitVec.ofNat 8 (forcesActive s), BitVec.ofNat 8 s.lock.val, BitVec.ofNat 8 (yesNo s.store.inFlight.isSome),
       BitVec.ofNat 8 s.resetCause.code, BitVec.ofNat 8 (yesNo s.rep.alarms.flood)] ∧
    (statusRecord s).drop 25 = beBytes 4 s.clock

/-- The read requests of the blocks answer OK with the records of the named points, of the three burners, of the six lines, of
the cooler with its grates and fans, and of the eight first-out groups, byte for byte in the order and the lengths that
Tables 10-6 and 10-7 give, and change nothing but the reply buffer; READ POINTS of a wrong first point or count is refused
RANGE. A field listed YES or NO, or ON or OFF, is 0 for the first name. Rounding the step time down to ms is assumption log 8,
the bits of a grate's channels byte assumption log 45, input i at bit i of the input fields assumption log 49, and 0 in the
unused bits of a byte of flags assumption log 56. -/
def Obligations.ReadsAnswerRecords : Prop :=
  ∀ (tag : Byte) (s : State), s.link.restartPending = false →
    let b := fun (n : Nat) => BitVec.ofNat 8 n
    let flag := fun (x : Bool) => if x then 1 else 0
    let point := fun (p : Fin 96) =>
      let x := s.points.points.nth p
      let limit := fun (j : Fin 4) =>
        if ((s.settings.points.nth p).limits.nth j).present then (if x.cond.nth j then 2 else 1) else 0
      [b p.val] ++ beBytes 4 (x.force.getD x.underlying).toNat ++
        [b (if x.force.isSome then 4 else x.quality.code), b x.age,
         b (limit 0 + 4 * limit 1 + 16 * limit 2 + 64 * limit 3)]
    let bits := fun (f : InputRec → Bool) =>
      beBytes 2 ((List.finRange 16).map fun i => if f (s.points.inputs.nth i) then 2 ^ i.val else 0).sum
    let inputs := bits (·.level) ++ bits (·.forceMask) ++ bits (·.forceData) ++
      bits (fun x => if x.forceMask then x.forceData else x.level) ++
      [b (if s.points.estop.healthy then 0 else 1), b (flag s.points.key.on)]
    let burner := fun (n : Fin 3) =>
      let x := s.burners.nth n
      let d := s.fuel.demands.nth n
      let cfg := s.settings.burners.nth n
      let forced := (cfg.airPoint.any fun p => (s.points.points.nth p).force.isSome) ||
        (cfg.fanInput.any fun i => (s.points.inputs.nth i).forceMask)
      [b x.state.code] ++ beBytes 4 (if x.stepRunning then x.stepLeft / 4000 else 0) ++ [b x.cause.code] ++
        beBytes 4 x.lockoutTime ++ beBytes 2 x.scanA.last ++ [b x.scanA.verdict.code] ++ beBytes 2 x.scanB.last ++
        [b x.scanB.verdict.code, b x.proven, b x.latched.k] ++ beBytes 2 x.dark ++
        [b x.darkLimit, b (flag x.disagree.isSome + 2 * flag x.grace.isSome), b x.air.code,
         b (flag x.pilot + 2 * flag x.mainp), b (flag forced)] ++
        beBytes 4 d.target ++ beBytes 4 (BitVec.ofInt 32 d.trim).toNat ++ beBytes 4 d.effective ++ beBytes 4 d.split ++
        beBytes 4 d.shortfall ++ beBytes 4 d.overfire ++ [b d.shortCount]
    let line := fun (m : Fin 6) =>
      let x := lineRec s m
      let cfg := lineCfg s m
      [b (flag cfg.configured), b cfg.burner.val, b cfg.kind.code, b x.requested.code, b x.actual.code] ++
        beBytes 2 x.rate ++ beBytes 2 x.target ++ beBytes 2 x.manualRate ++ beBytes 4 x.assigned ++ [b x.faults] ++
        beBytes 4 x.lastF ++ beBytes 4 x.lastExpected ++
        [b (flag x.window.isSome), b x.metering.code, b x.driveLimit.code,
         b (flag (assigned s (.lineDrive m)) + 2 * flag (assigned s (.lineFeedback m)))]
    let grate := fun (n : Fin 3) =>
      let g := s.cooler.grates.nth n
      [b g.state.code] ++ beBytes 2 g.speed ++ beBytes 2 g.windowSpeed ++ [b g.stalls] ++ beBytes 4 g.strokes ++
        [b g.expected] ++ beBytes 4 g.cycles ++
        [b g.driveLimit.code, b (flag (assigned s (.grateDrive n)) + 2 * flag (assigned s (.grateFeedback n)))]
    let fan := fun (n : Fin 6) =>
      let f := s.cooler.fans.nth n
      beBytes 2 f.hostRef ++ beBytes 2 f.applied ++ [b (flag (assigned s (.fan n)))]
    (∀ first count : Byte, first.toNat < 96 → 1 ≤ count.toNat → count.toNat ≤ 24 →
      let ps := ((List.finRange 96).drop first.toNat).take count.toNat
      let data := [BitVec.ofNat 8 (min count.toNat (96 - first.toNat))] ++ ps.flatMap point ++ inputs
      exec (.readPoints tag first count) s = .next (replied 0x11 tag .ok data s) ∧
      data.length = 11 + 8 * min count.toNat (96 - first.toNat)) ∧
    (∀ first count : Byte, (96 ≤ first.toNat ∨ count.toNat = 0 ∨ 24 < count.toNat) →
      exec (.readPoints tag first count) s = .next (replied 0x11 tag .range [] s)) ∧
    (let data := burner 0 ++ burner 1 ++ burner 2
     exec (.readBurners tag) s = .next (replied 0x24 tag .ok data s) ∧ data.length = 150) ∧
    (let data := line 0 ++ line 1 ++ line 2 ++ line 3 ++ line 4 ++ line 5
     exec (.readLines tag) s = .next (replied 0x2C tag .ok data s) ∧ data.length = 168) ∧
    (let code := fun (b : Bool) => if b then (0x00#8 : Byte) else 0x01#8
     let data := [BitVec.ofNat 8 s.cooler.state.code] ++ beBytes 2 s.cooler.s0 ++ [BitVec.ofNat 8 s.cooler.pileCount] ++
       beBytes 4 s.cooler.pressure.toNat ++ [code s.cooler.pressureFresh, code s.cooler.boost, code s.cooler.cutback] ++
       grate 0 ++ grate 1 ++ grate 2 ++ fan 0 ++ fan 1 ++ fan 2 ++ fan 3 ++ fan 4 ++ fan 5
     exec (.readCooler tag) s = .next (replied 0x33 tag .ok data s) ∧ data.length = 92) ∧
    (let group := fun (g : Fin 8) =>
       let x := s.rep.alarms.groups.nth g
       [if x.armed then (0x00#8 : Byte) else 0x01#8] ++ optBytes 2 (x.first.map (·.val)) ++ beBytes 4 x.firstTime ++
         beBytes 2 x.subsequent
     let data := group 0 ++ group 1 ++ group 2 ++ group 3 ++ group 4 ++ group 5 ++ group 6 ++ group 7
     exec (.readFirstOut tag) s = .next (replied 0x3C tag .ok data s) ∧ data.length = 72)

/-- READ ALARMS answers at most 32 records of the block from the offset: the i-th of them is the record of alarm base +
offset + i, field by field as Table 10-6 gives it; a block that the selector does not take, or an offset past it, is refused
RANGE; nothing but the reply buffer changes. That the unused bits of suppression set and flags are 0 is the model's choice
(assumption log 56). -/
def Obligations.ReadAlarmsAnswersTheBlock : Prop :=
  ∀ (tag : Byte) (base : Half) (e : Byte) (offset : Half) (s : State), s.link.restartPending = false →
    (base.toNat < 512 → e.toNat ≤ 9 → base.toNat % 2 ^ e.toNat = 0 → offset.toNat < 2 ^ e.toNat →
      ∃ data, exec (.readAlarms tag base e offset) s = .next (replied 0x3B tag .ok data s) ∧
        data.length = 11 + 14 * min 32 (2 ^ e.toNat - offset.toNat) ∧
        data.take 11 =
          beBytes 2 base.toNat ++ [e] ++ beBytes 2 offset.toNat ++
            [BitVec.ofNat 8 (min 32 (2 ^ e.toNat - offset.toNat))] ++ beBytes 2 s.rep.alarms.unackCount ++
            beBytes 2 s.rep.alarms.activeCount ++ [BitVec.ofNat 8 (yesNo s.rep.alarms.flood)] ∧
        ∀ (i : Nat) (a : Fin 512), i < min 32 (2 ^ e.toNat - offset.toNat) → a.val = base.toNat + offset.toNat + i →
          (data.drop (11 + 14 * i)).take 14 =
            (let x := s.rep.alarms.recs.nth a
             let cfg := s.settings.alarms.nth a
             let b := fun (n : Nat) => BitVec.ofNat 8 n
             let flag := fun (y : Bool) => if y then 1 else 0
             beBytes 2 a.val ++
               [b x.state.code, b cfg.priority.val, b (match cfg.group with | some g => g.val | none => 255),
                b cfg.suppress.toNat,
                b (flag x.shelved + 2 * flag x.held + 4 * flag (s.rep.notices.link.nth a).isSome)] ++
               beBytes 2 x.shelveMinutes ++ [b x.raises] ++ beBytes 4 x.time)) ∧
    ((512 ≤ base.toNat ∨ 9 < e.toNat ∨ (e.toNat ≤ 9 ∧ base.toNat % 2 ^ e.toNat ≠ 0) ∨
        (e.toNat ≤ 9 ∧ 2 ^ e.toNat ≤ offset.toNat)) →
      exec (.readAlarms tag base e offset) s = .next (replied 0x3B tag .range [] s))

/-- READ REPORT finds a report in the ring first, then among the stored copies, and answers one part of it, field by field as
Table 9-2 gives it; READ OPEN SHIFT answers all parts of the open record with end time now, cause NONE and the substitution
rate formed now, and the ring summary. Neither changes anything but the reply buffer. That the rate is not clamped to 1,000
is assumption log 46, and the bytes of an EMPTY slot are assumption log 12. -/
def Obligations.ReportsAreRead : Prop :=
  ∀ (tag : Byte) (seq : Word) (part : Byte) (s : State), s.link.restartPending = false →
    let inRing := fun (i : Fin 8) => ∃ x, (s.rep.shift.ring.nth i).report = some x ∧ x.seq = seq.toNat
    let inCopy := fun (c : Fin 2) => ∃ x, s.nv.copies.nth c = some x ∧ x.seq = seq.toNat
    let words := fun (ns : List Nat) => ns.flatMap (beBytes 4)
    let flag := fun (y : Bool) => if y then 1 else 0
    let layout := fun (p : Fin 4) (x : ShiftRecord) =>
      match p with
      | 0 => words [x.seq, x.startTime, x.endTime, x.elapsed] ++
          [BitVec.ofNat 8 (flag x.startedAfterReset + 2 * flag x.clockSetDuring + 4 * flag x.deferredClose),
           BitVec.ofNat 8 x.cause.code] ++ beBytes 2 x.substitution ++ words (List.ofFn x.modeSeconds.nth)
      | 1 => words (List.ofFn x.raises.nth) ++ words [x.floodSeconds, x.noticesLost] ++ words (List.ofFn x.strokes.nth) ++
          words [x.pileUpSeconds] ++ beBytes 2 x.coolerTrips
      | 2 => (List.ofFn x.burners.nth).flatMap (fun y => words [y.heatMJ, y.firingSeconds] ++ beBytes 2 y.lockouts) ++
          words [x.totalMJ, x.altMJ]
      | 3 => (List.ofFn x.lines.nth).flatMap fun y =>
          words [y.kg, y.weighSeconds, y.volumetricSeconds] ++ beBytes 2 y.trips
    let slot := fun (y : Slot) =>
      match y.report with
      | some x => [0x01#8] ++ beBytes 4 x.seq ++ [BitVec.ofNat 8 y.hold]
      | none => [0x00#8, 0xFF#8, 0xFF#8, 0xFF#8, 0xFF#8, 0x00#8]
    let found := fun (p : Fin 4) (source : Byte) (x : ShiftRecord) =>
      replied 0x4B tag .ok (beBytes 4 seq.toNat ++ [BitVec.ofNat 8 p.val, source] ++ layout p x) s
    (∀ (p : Fin 4) (i : Fin 8) (x : ShiftRecord), part.toNat = p.val →
      (s.rep.shift.ring.nth i).report = some x → x.seq = seq.toNat → (∀ j, j < i → ¬ inRing j) →
      exec (.readReport tag seq part) s = .next (found p 0 x)) ∧
    (∀ (p : Fin 4) (c : Fin 2) (x : ShiftRecord), part.toNat = p.val → (∀ j, ¬ inRing j) →
      s.nv.copies.nth c = some x → x.seq = seq.toNat → (∀ d, d < c → ¬ inCopy d) →
      exec (.readReport tag seq part) s = .next (found p 1 x)) ∧
    (part.toNat < 4 → (∀ j, ¬ inRing j) → (∀ c, ¬ inCopy c) →
      exec (.readReport tag seq part) s = .next (replied 0x4B tag .notFound [] s)) ∧
    (4 ≤ part.toNat → exec (.readReport tag seq part) s = .next (replied 0x4B tag .range [] s)) ∧
    (∀ (p : Fin 4) (x : ShiftRecord), (layout p x).length = [40, 42, 38, 84].getD p.val 0) ∧
    (let y := s.rep.shift.openRec
     let x := { y with endTime := s.clock, cause := .none,
                       substitution := if y.totalMJ = 0 then 0 else y.altMJ * 1000 / y.totalMJ }
     let data := layout 0 x ++ layout 1 x ++ layout 2 x ++ layout 3 x ++
       [BitVec.ofNat 8 s.rep.shift.closePending.code] ++ (List.ofFn s.rep.shift.ring.nth).flatMap slot
     exec (.readOpenShift tag) s = .next (replied 0x4C tag .ok data s) ∧ data.length = 253 ∧
     data.take 16 = beBytes 4 s.rep.shift.openRec.seq ++ beBytes 4 s.rep.shift.openRec.startTime ++ beBytes 4 s.clock ++
       beBytes 4 s.rep.shift.openRec.elapsed)

/-! Settings, flags, clock, resets -/

/-- READ SETTING and WRITE SETTING make the checks of R176 in their order: an address that does not exist UNKNOWN, a
protected item LOCKED with PROTECT-VIOLATION and alarm 101, a value out of range RANGE, the owner's own refusal, and only
then the write takes effect, with what the owning chapter has it do at once; a channel that changes is cleared and its owners
told: a line's availability and feedback window, a grate, a fan; a refused write changes no setting. The model's choices in
it: a written Rmin or Rmax clamps the ignition line in MAIN-TRIAL too (assumption log 40), a written silence time restarts the
timer only while the link is NORMAL (log 27), a cleared channel begins with the prescaler's count at 0 (log 10), the order of
two refusals of one owner decides the status (log 21), and a grate whose drive is given starts with the settings as written
(log 44) and its window speed at its speed (log 22). The frequency of a clamped rate is formed with the Kf in force (R44). -/
def Obligations.SettingRequestsAreChecked : Prop :=
  ∀ (tag group : Byte) (inst : Half) (item : Byte) (value : Word) (s : State), s.link.restartPending = false →
    let place := settingAt s group inst item
    let write := exec (.writeSetting tag group inst item value) s
    (place = none →
      exec (.readSetting tag group inst item) s = .next (replied 0x50 tag .unknown [] s) ∧
      write = .next (replied 0x51 tag .unknown [] s)) ∧
    ∀ (a : SettingAddr) (v : Word), place = some (a, v) →
      exec (.readSetting tag group inst item) s = .next (replied 0x50 tag .ok (beBytes 4 v.toNat) s) ∧
      (protectedAt s.lock a item.toNat = true →
        ∃ t, write = .next (replied 0x51 tag .locked [] t) ∧ t = { s with rep := t.rep } ∧
          t.rep.sticky.protectViolation = true ∧ alarmActive t 101 = true ∧
          alarmsKept (fun x => x = 101 ∨ byLoss x) s t) ∧
      (protectedAt s.lock a item.toNat = false →
        (s.settings.write a item.toNat value = none → write = .next (replied 0x51 tag .range [] s)) ∧
        ∀ new, s.settings.write a item.toNat value = some new →
          (∀ st, ownRefusal a item.toNat new s = some st → write = .next (replied 0x51 tag st [] s)) ∧
          (ownRefusal a item.toNat new s = none →
            ∃ t, write = .next (replied 0x51 tag .ok [] t) ∧
              t = { s with settings := new, points := { s.points with points := t.points.points },
                           burners := t.burners, fuel := t.fuel, channels := t.channels, cooler := t.cooler,
                           kiln := t.kiln, rep := t.rep, link := { s.link with silence := t.link.silence } } ∧
              fuelKept s t ∧ repKept s t ∧ changesPosted s t ∧ writeActs a item.toNat s t))

/-- A written value is the value the item then has, and no other item changes. -/
def Obligations.WrittenSettingReadsBack : Prop :=
  ∀ (cfg new : Settings) (a b : SettingAddr) (i j : Nat) (v : Word), cfg.write a i v = some new →
    new.item a i = some v ∧ ((b, j) ≠ (a, i) → new.item b j = cfg.item b j)

/-- CLEAR FLAGS clears the sticky flags but CLOCK-UNSET, both counts and alarms 97 and 101; SET CLOCK sets the plant clock,
restarts its timer, clears CLOCK-UNSET and alarm 103 and marks the open shift; the clock's second advances it by 1. A
notice that a clear files may itself be lost when the queues are full: the second part says what a free cell rules out. -/
def Obligations.FlagsAndClock : Prop :=
  ∀ (tag : Byte) (clock : Word) (s : State),
    (s.link.restartPending = false →
      (∃ t, exec (.clearFlags tag) s = .next (replied 0x03 tag .ok [] t) ∧
        t = { s with link := { s.link with errors := 0 }, rep := t.rep } ∧
        t.rep.sticky = { crcError := false, overrun := false, noticeLost := t.rep.sticky.noticeLost,
                         protectViolation := false, storeFault := false, clockUnset := s.rep.sticky.clockUnset } ∧
        alarmActive t 101 = false ∧
        (2 ≤ s.rep.notices.free.length →
          t.rep.sticky.noticeLost = false ∧ t.rep.notices.lost = 0 ∧ alarmActive t 97 = false)) ∧
      (∃ t, exec (.setClock tag clock) s = .next (replied 0x04 tag .ok [] t) ∧
        t = { s with clock := clock.toNat, clockTimer := Config.sec 1, rep := t.rep } ∧
        t.rep.sticky.clockUnset = false ∧ t.rep.shift.openRec.clockSetDuring = true ∧ alarmActive t 103 = false ∧
        alarmsKept (fun x => x = 103 ∨ byLoss x) s t)) ∧
    exec .plantClockSecond s =
      .next { s with clock := min 4294967295 (s.clock + 1), clockTimer := Config.sec 1 }

/-- What every reset leaves, by its cause: settings and lock level loaded, and points, inputs, lines, demand records, channels,
cooler, kiln mode, link and store at their reset values, E-STOP UNHEALTHY and KEY OFF, every burner LOCKED-OUT with both
outputs low; the Notice Queues begin with the START notice at the head of ROUTINE, and every alarm record, first-out group
and older flood bucket that the start-up alarms do not reach is at its reset value. Alarms 103 and 98 are raised where they
apply. POWER-ON and RESET-PIN set the plant clock to 0, set CLOCK-UNSET and empty the ring; RESTART keeps the three and
zeroes the hold counts. That a reset keeps pins, storage and waiting commands is assumption log 34, that a pin which is high
at the reset starts its debounce there assumption log 7, that the receiver hunts for a frame after the reset assumption log 52,
that the START notice takes cell 0 assumption log 24, that RESTART_RESET with no answered RESTART changes nothing assumption
log 4, that the straps are read at the levels the sender gives them assumption log 6, and that the loaded CV and Kf are in
force from the reset is read from R44 (DEDUCED, assumption log 38). -/
def Obligations.ResetsReload : Prop :=
  ∀ (baud1 baud0 : Bool) (s : State),
    let loaded := fun (t : State) (cause : LockoutCause) =>
      (∀ n, (t.burners.nth n).state = .lockedOut ∧ (t.burners.nth n).cause = cause ∧
        (t.burners.nth n).lockoutTime = t.clock ∧ (t.burners.nth n).pilot = false ∧ (t.burners.nth n).mainp = false ∧
        (t.burners.nth n).latched = (t.settings.burners.nth n).timing) ∧
      (∀ p, t.points.points.nth p = .begin) ∧ t.points.estop.healthy = false ∧ t.points.key.on = false ∧
      (∀ i, t.points.inputs.nth i = .begin t.settings.general.debounce (s.points.inputs.nth i).pin) ∧
      t.points.estop = .begin t.settings.general.debounce s.points.estop.pinHigh ∧
      t.points.key = .begin t.settings.general.debounce s.points.key.pin ∧
      t.points.supervision = Config.ms t.settings.general.supervision ∧
      (∀ n, t.burners.nth n = .begin cause t.clock (t.settings.burners.nth n)) ∧
      (∀ n, t.fuel.demands.nth n = .begin ∧ t.fuel.ignition.nth n = none) ∧ t.fuel.fraction = 0 ∧
      t.fuel.periodLeft = Config.ms t.settings.fuel.controlPeriod ∧
      t.fuel.periodLength = Config.ms t.settings.fuel.controlPeriod ∧
      (∀ m, lineRec t m = .begin (t.settings.lines.nth m)) ∧ (∀ c, t.channels.nth c = .begin) ∧
      (∀ m, t.fuel.factors.nth m = { cv := (t.settings.lines.nth m).cv, kf := (t.settings.lines.nth m).kf }) ∧
      t.cooler = .begin t.settings.cooler ∧ t.kiln = .begin ∧ t.link = .begin t.straps ∧ t.store = .begin ∧
      t.nv = s.nv ∧ t.pending = s.pending ∧
      t.rep.shift.openRec.startedAfterReset = true ∧
      t.rep.shift.openRec.seq = 1 + highestSeq t.rep.shift.ring s.nv.copies ∧ t.rep.shift.closePending = .none ∧
      t.rep.shift.carries = .begin ∧ t.rep.shift.timer = Config.sec 1
    let reported := fun (t : State) (cause : ResetCause) =>
      let own := fun (a : Fin 512) => a = 98 ∨ a = 103 ∨ byLoss a
      let q := t.rep.notices
      q.routine.head? = some 0 ∧
      q.cells.nth 0 = some { body := .start cause, cls := .routine, firstTime := t.clock, lastTime := t.clock,
                             transitions := 1 } ∧
      q.attention = true ∧ q.lost = 0 ∧
      t.rep.alarms.mode = .off ∧ t.rep.alarms.buckets.drop 1 = List.replicate 9 0 ∧
      t.rep.alarms.minuteTimer = Config.sec 60 ∧ t.rep.alarms.secondTimer = Config.sec 1 ∧
      (∀ a, ¬ own a → t.rep.alarms.recs.nth a = .begin t.clock ∧ q.link.nth a = none) ∧
      ∀ g, (∀ a, own a → (t.settings.alarms.nth a).group ≠ some g) → t.rep.alarms.groups.nth g = .begin
    let settings := fun (t : State) =>
      (∀ cfg, s.nv.image = some cfg →
        t.settings = cfg ∧ t.lock = s.nv.lockRecord.getD 3 ∧ alarmActive t 98 = false ∧ loaded t .powerUp) ∧
      (s.nv.image = none → t.settings = Settings.factory ∧ t.lock = 3 ∧ alarmActive t 98 = true ∧ loaded t .settings)
    let cold := fun (t : State) (cause : ResetCause) =>
      settings t ∧ reported t cause ∧ t.resetCause = cause ∧ t.straps = { baud1 := baud1, baud0 := baud0 } ∧ t.clock = 0 ∧
        t.rep.sticky = .begin true ∧ alarmActive t 103 = true ∧ t.rep.shift.ring = Tab.fill .empty
    (∃ t, exec (.powerOn baud1 baud0) s = .next t ∧ cold t .powerOn) ∧
    (∃ t, exec (.resetPin baud1 baud0) s = .next t ∧ cold t .resetPin) ∧
    (s.link.restartPending = true →
      ∃ t, exec .restartReset s = .next t ∧ settings t ∧ reported t .restart ∧ t.resetCause = .restart ∧ t.straps = s.straps ∧
        t.clock = s.clock ∧ t.rep.sticky = .begin s.rep.sticky.clockUnset ∧
        alarmActive t 103 = s.rep.sticky.clockUnset ∧
        ∀ i, t.rep.shift.ring.nth i = { s.rep.shift.ring.nth i with hold := 0 }) ∧
    (s.link.restartPending = false → exec .restartReset s = .next s)

/-! Points, inputs, forces -/

/-- PUT SAMPLES of a wrong shape is refused LENGTH; any other is answered OK with the count of taken entries and the first
refused one, and takes its entries in order. A good entry stores sample, age and quality GOOD and evaluates the limits of the
point at its new value; a BAD entry keeps the sample and the limit conditions; a refused entry changes nothing; no other point
changes, every burner that uses the point has its air permissive re-formed, changes of state post their notices, and the kiln
mode follows the burners. -/
def Obligations.SamplesAreTaken : Prop :=
  ∀ (tag count : Byte) (entries : List SampleEntry) (s : State),
    (s.link.restartPending = false →
      (1 ≤ count.toNat ∧ count.toNat ≤ 24 ∧ entries.length = count.toNat →
        exec (.putSamples tag count entries) s =
          .next (replied 0x10 tag .ok
            ([BitVec.ofNat 8 (entries.countP fun e => e.point.toNat < 96 && e.bad.toNat < 2)] ++
              optBytes 1 (entries.findIdx? fun e => !(e.point.toNat < 96 && e.bad.toNat < 2)))
            (entries.foldl takeEntry s))) ∧
      (¬ (1 ≤ count.toNat ∧ count.toNat ≤ 24 ∧ entries.length = count.toNat) →
        exec (.putSamples tag count entries) s = .next (replied 0x10 tag .length [] s))) ∧
    ∀ e : SampleEntry,
      let t := takeEntry s e
      (96 ≤ e.point.toNat ∨ 2 ≤ e.bad.toNat → t = s) ∧
      pointFrame s t ∧ changesPosted s t ∧
      (∀ q : Fin 96, q.val ≠ e.point.toNat → t.points.points.nth q = s.points.points.nth q) ∧
      ∀ p : Fin 96, e.point.toNat = p.val →
        (e.bad = 0 → t.points.points.nth p =
          { s.points.points.nth p with
            underlying := e.value, age := (s.settings.points.nth p).reload, quality := .good
            cond := (t.points.points.nth p).cond } ∧ limitsEvaluated p s t) ∧
        (e.bad = 1 → t.points.points.nth p =
          { s.points.points.nth p with age := (s.settings.points.nth p).reload, quality := .bad }) ∧
        (e.bad.toNat < 2 → ∀ n, (s.settings.burners.nth n).airPoint = some p → (t.burners.nth n).air = airOf t n) ∧
        (∀ n, (s.settings.burners.nth n).airPoint ≠ some p → t.burners.nth n = s.burners.nth n)

/-- Limit evaluation of a point: HH and H go ACTIVE at or above the limit and INACTIVE below the limit minus the deadband, L
and LL the other way round; an absent limit keeps its condition; each change raises or clears the alarm 128 + 4p + j, and
nothing else of the point or of the other blocks changes. -/
def Obligations.LimitsAreEvaluated : Prop :=
  ∀ (p : Fin 96) (s : State),
    let t := evalLimits p s
    let old := s.points.points.nth p
    let new := t.points.points.nth p
    t = { s with points := { s.points with points := s.points.points.put p { old with cond := new.cond } },
                 rep := t.rep } ∧
    repKept s t ∧
    alarmsKept (fun a => byLoss a ∨ ∃ j, a = limitAlarm p j ∧ old.cond.nth j ≠ new.cond.nth j) s t ∧
    limitsEvaluated p s t

/-- A supervision expiry ages every point by one, makes a point whose age reaches 0 STALE, restarts the timer with the
setting in force, and re-forms the air permissive of every burner; the kiln mode follows a lockout that this brings, and else
stays. -/
def Obligations.SupervisionAgesPoints : Prop :=
  ∀ s : State, ∃ t, exec .supervisionExpiry s = .next t ∧
    t = { s with points := { s.points with points := t.points.points,
                                           supervision := Config.ms s.settings.general.supervision },
                 burners := t.burners, fuel := t.fuel, channels := t.channels, kiln := t.kiln, rep := t.rep } ∧
    fuelKept s t ∧ channelsKept s t ∧ repKept s t ∧ changesPosted s t ∧ kilnFollows s t ∧
    (∀ p, t.points.points.nth p =
      let x := s.points.points.nth p
      if x.age = 0 then x else if x.age = 1 then { x with age := 0, quality := .stale } else { x with age := x.age - 1 }) ∧
    ∀ n, (t.burners.nth n).air = airOf t n

/-- FORCE POINT, UNFORCE POINT and FORCE INPUTS: RANGE for a point of 96 or more; PROTECTED, with no change, where a
protected point or input would be forced anew or otherwise than before while the lock level is not 0, KEY is OFF or a
burner that uses it is not at rest; otherwise the force is set or removed, every burner's air permissive follows and the kiln
mode follows the burners. FORCE
POINT evaluates the limits of the point at its new value, UNFORCE POINT those of a point that stays GOOD; of another point it
keeps the conditions. Input i stands at bit i of mask and data (assumption log 49). -/
def Obligations.ForcesAreGuarded : Prop :=
  ∀ (tag point : Byte) (value : Word) (mask data : Half) (s : State), s.link.restartPending = false →
    let free := fun (uses : Fin 3 → Prop) =>
      s.lock = 0 ∧ s.points.key.on = true ∧ ∀ n, uses n → (burnerState s n).atRest = true
    (96 ≤ point.toNat →
      exec (.forcePoint tag point value) s = .next (replied 0x12 tag .range [] s) ∧
      exec (.unforcePoint tag point) s = .next (replied 0x13 tag .range [] s)) ∧
    (∀ p : Fin 96, point.toNat = p.val →
      let x := s.points.points.nth p
      let uses := fun n => (s.settings.burners.nth n).airPoint = some p
      let denied := ((s.settings.points.nth p).cls = .interlock ∨ ∃ n, uses n) ∧ x.force ≠ some value ∧ ¬ free uses
      let changed := fun (t : State) (force : Option Word) =>
        pointFrame s t ∧ changesPosted s t ∧
        t.points.points.nth p = { x with force := force, cond := (t.points.points.nth p).cond } ∧
        (∀ q, q ≠ p → t.points.points.nth q = s.points.points.nth q) ∧
        (∀ n, uses n → (t.burners.nth n).air = airOf t n) ∧ ∀ n, ¬ uses n → t.burners.nth n = s.burners.nth n
      (denied → exec (.forcePoint tag point value) s = .next (replied 0x12 tag .protected_ [] s)) ∧
      (¬ denied → ∃ t, exec (.forcePoint tag point value) s = .next (replied 0x12 tag .ok [] t) ∧
        changed t (some value) ∧ limitsEvaluated p s t) ∧
      (x.force = none → exec (.unforcePoint tag point) s = .next (replied 0x13 tag .ok [] s)) ∧
      (x.force.isSome → ∃ t, exec (.unforcePoint tag point) s = .next (replied 0x13 tag .ok [] t) ∧ changed t none ∧
        (x.quality = .good → limitsEvaluated p s t) ∧
        (x.quality ≠ .good → (t.points.points.nth p).cond = x.cond))) ∧
    (let uses := fun (i : Fin 16) n => (s.settings.burners.nth n).fanInput = some i
     let denied := ∃ i : Fin 16, (∃ n, uses i n) ∧ mask.getLsbD i.val = true ∧
       ¬ ((s.points.inputs.nth i).forceMask = true ∧ (s.points.inputs.nth i).forceData = data.getLsbD i.val) ∧
       ¬ free (uses i)
     (denied → exec (.forceInputs tag mask data) s = .next (replied 0x14 tag .protected_ [] s)) ∧
     (¬ denied → ∃ t, exec (.forceInputs tag mask data) s = .next (replied 0x14 tag .ok [] t) ∧
       t = { s with points := { s.points with inputs := t.points.inputs }, burners := t.burners, fuel := t.fuel,
                    channels := t.channels, kiln := t.kiln, rep := t.rep } ∧
       fuelKept s t ∧ channelsKept s t ∧ repKept s t ∧ changesPosted s t ∧ kilnFollows s t ∧
       (∀ i, t.points.inputs.nth i =
         { s.points.inputs.nth i with forceMask := mask.getLsbD i.val
                                      forceData := mask.getLsbD i.val && data.getLsbD i.val }) ∧
       ∀ n, (t.burners.nth n).air = airOf t n))

/-- The debounce of the sixteen inputs and of KEY: an edge that differs from the debounced level starts the timer with that
level as candidate, an edge back to it stops the timer, a level that does not change is no edge, and an expiry of a running
timer takes the candidate, and the kiln mode follows a lockout that its new level brings; the expiry of a stopped timer does
nothing (the model's choice, assumption log 2). -/
def Obligations.InputsAreDebounced : Prop :=
  ∀ (i : Fin 16) (high : Bool) (s : State),
    let x := s.points.inputs.nth i
    let k := s.points.key
    let time := some (Config.ms s.settings.general.debounce)
    let withInput := fun y => { s with points := { s.points with inputs := s.points.inputs.put i y } }
    let withKey := fun y => { s with points := { s.points with key := y } }
    (x.pin = high → exec (.dinEdge i high) s = .next s) ∧
    (x.pin ≠ high → high = x.level →
      exec (.dinEdge i high) s = .next (withInput { x with pin := high, timer := none })) ∧
    (x.pin ≠ high → high ≠ x.level →
      exec (.dinEdge i high) s = .next (withInput { x with pin := high, candidate := high, timer := time })) ∧
    (x.timer = none → exec (.dinDebounceExpiry i) s = .next s) ∧
    (x.timer.isSome → ∃ t, exec (.dinDebounceExpiry i) s = .next t ∧
      t = { withInput { x with level := x.candidate, timer := none } with
            burners := t.burners, fuel := t.fuel, channels := t.channels, kiln := t.kiln, rep := t.rep } ∧
      fuelKept s t ∧ channelsKept s t ∧ repKept s t ∧ changesPosted s t ∧ kilnFollows s t ∧
      (∀ n, (s.settings.burners.nth n).fanInput = some i → (t.burners.nth n).air = airOf t n) ∧
      ∀ n, (s.settings.burners.nth n).fanInput ≠ some i → t.burners.nth n = s.burners.nth n) ∧
    (k.pin = high → exec (.keyEdge high) s = .next s) ∧
    (k.pin ≠ high → high = k.on → exec (.keyEdge high) s = .next (withKey { k with pin := high, timer := none })) ∧
    (k.pin ≠ high → high ≠ k.on →
      exec (.keyEdge high) s = .next (withKey { k with pin := high, candidate := high, timer := time })) ∧
    (k.timer = none → exec .keyDebounceExpiry s = .next s) ∧
    (k.timer.isSome →
      exec .keyDebounceExpiry s = .next (withKey { k with on := k.candidate, timer := none }))

/-- E-STOP: a low pin makes it UNHEALTHY at once and, from HEALTHY, locks out every burner that is not locked out, with
cause E-STOP and alarm 16n + 6, and the kiln mode follows the lockouts: PRODUCTION goes to UPSET and SHUTDOWN to OFF once no
burner is pending. The pin's rise starts the debounce and its end makes E-STOP HEALTHY. ESTOP_PIN_HIGH with the pin high
already and ESTOP_HEALTHY with the timer stopped change nothing (the model's choice, assumption log 2). -/
def Obligations.EstopLocksOut : Prop :=
  ∀ s : State,
    let withEstop := fun x => { s with points := { s.points with estop := x } }
    let low : EstopRec := { pinHigh := false, healthy := false, timer := none }
    (s.points.estop.healthy = false → exec .estopUnhealthy s = .next (withEstop low)) ∧
    (s.points.estop.healthy = true → ∃ t, exec .estopUnhealthy s = .next t ∧
      t = { withEstop low with burners := t.burners, fuel := t.fuel, channels := t.channels, kiln := t.kiln,
                               rep := t.rep } ∧
      fuelKept s t ∧ channelsKept s t ∧ repKept s t ∧ changesPosted s t ∧ kilnFollows s t ∧
      ∀ n, (burnerState s n = .lockedOut → t.burners.nth n = s.burners.nth n) ∧
        (burnerState s n ≠ .lockedOut →
          t.burners.nth n = lockedRec (s.settings.burners.nth n) .estop s.clock (s.burners.nth n) ∧
          alarmActive t (burnerAlarm n 6) = true ∧ linesOff n s t)) ∧
    (s.points.estop.pinHigh = true → exec .estopPinHigh s = .next s) ∧
    (s.points.estop.pinHigh = false →
      exec .estopPinHigh s =
        .next (withEstop { s.points.estop with pinHigh := true,
                                               timer := some (Config.ms s.settings.general.debounce) })) ∧
    (s.points.estop.timer = none → exec .estopHealthy s = .next s) ∧
    (s.points.estop.timer.isSome →
      exec .estopHealthy s = .next (withEstop { s.points.estop with healthy := true, timer := none }))

/-! Burners -/

/-- What a changed air permissive does, by the burner's state: in PURGE the step timer stops and reloads with PURGE HELD, or
starts from the full purge time; in PILOT-TRIAL and MAIN-TRIAL any loss locks out; in FIRING a loss by staleness starts the
stale grace with INTERLOCK STALE, a real loss locks out, and a return ends the grace; in the other states nothing. The kiln
mode follows the burner. -/
def Obligations.AirPermissiveActs : Prop :=
  ∀ (n : Fin 3) (s : State),
    let t := reformAir n s
    let old := s.burners.nth n
    let now := airOf s n
    let b : BurnerRec := { old with air := now }
    let cfg := s.settings.burners.nth n
    burnerFrame n s t ∧ changesPosted s t ∧ (now = old.air → t = s) ∧
    (now ≠ old.air →
      (old.state = .purge → now = .permitted →
        t.burners.nth n = { b with stepRunning := true, stepLeft := Config.sec b.latched.purgeTime } ∧
        alarmActive t (burnerAlarm n 12) = false) ∧
      (old.state = .purge → old.air = .permitted →
        t.burners.nth n = { b with stepRunning := false, stepLeft := Config.sec b.latched.purgeTime } ∧
        alarmActive t (burnerAlarm n 12) = true) ∧
      (old.state = .purge → now ≠ .permitted → old.air ≠ .permitted → t.burners.nth n = b) ∧
      (old.state = .pilotTrial ∨ old.state = .mainTrial → now ≠ .permitted →
        t.burners.nth n = lockedRec cfg .airLost s.clock b ∧ alarmActive t (burnerAlarm n 4) = true) ∧
      (old.state = .pilotTrial ∨ old.state = .mainTrial → now = .permitted → t.burners.nth n = b) ∧
      (old.state = .firing → now = .permitted →
        t.burners.nth n = { b with grace := none } ∧ alarmActive t (burnerAlarm n 5) = false) ∧
      (old.state = .firing → now = .staleOnly →
        (b.latched.staleGrace ≠ 0 →
          t.burners.nth n = { b with grace := some (Config.sec b.latched.staleGrace) } ∧
          alarmActive t (burnerAlarm n 5) = true) ∧
        (b.latched.staleGrace = 0 → t.burners.nth n = lockedRec cfg .interlockStale s.clock b)) ∧
      (old.state = .firing → now = .lost →
        t.burners.nth n = lockedRec cfg .airLost s.clock b ∧ alarmActive t (burnerAlarm n 4) = true) ∧
      (old.state = .lockedOut ∨ old.state = .idle ∨ old.state = .stopping → t.burners.nth n = b))

/-- BURNER START: RANGE for a burner of 3 or more; from IDLE, with the six conditions of R28, the burner enters PURGE with its
timing set latched and the step timer running, and the change is posted; otherwise STATE and no change. -/
def Obligations.BurnerStartPurges : Prop :=
  ∀ (tag burner : Byte) (s : State), s.link.restartPending = false →
    (3 ≤ burner.toNat → exec (.burnerStart tag burner) s = .next (replied 0x20 tag .range [] s)) ∧
    ∀ n : Fin 3, burner.toNat = n.val →
      let b := s.burners.nth n
      let cfg := s.settings.burners.nth n
      let ready := b.state = .idle ∧
        (s.kiln.mode = .heatUp ∨ s.kiln.mode = .production ∨ s.kiln.mode = .upset) ∧
        (∀ p, cfg.airPoint = some p → (s.points.points.nth p).force = none) ∧
        (∀ i, cfg.fanInput = some i → (s.points.inputs.nth i).forceMask = false) ∧
        b.air = .permitted ∧ s.points.estop.healthy = true ∧ b.scanA.verdict ≠ .flame ∧ b.scanB.verdict ≠ .flame ∧
        ∃ m, cfg.ignitionLine = some m ∧ (lineCfg s m).configured = true ∧ (lineCfg s m).burner = n
      (ready → ∃ t, exec (.burnerStart tag burner) s = .next (replied 0x20 tag .ok [] t) ∧ burnerFrame n s t ∧
        changesPosted s t ∧ t.kiln = s.kiln ∧
        t.burners.nth n = timedRec cfg .purge false false cfg.timing.purgeTime (min b.proven cfg.timing.k) b) ∧
      (¬ ready → exec (.burnerStart tag burner) s = .next (replied 0x20 tag .state [] s))

/-- BURNER STOP: RANGE for a burner of 3 or more; from PURGE and PILOT-TRIAL to IDLE, from MAIN-TRIAL and FIRING to STOPPING
with the post-purge running (with a post-purge time of 0 s on to LOCKED-OUT or IDLE by the last verdicts), each change with
its BURNER notice, with PURGE HELD cleared on leaving PURGE and INTERLOCK STALE on leaving FIRING, and OK with no change in
the other states; the kiln mode follows the burner. -/
def Obligations.BurnerStopsByState : Prop :=
  ∀ (tag burner : Byte) (s : State), s.link.restartPending = false →
    (3 ≤ burner.toNat → exec (.burnerStop tag burner) s = .next (replied 0x21 tag .range [] s)) ∧
    ∀ n : Fin 3, burner.toNat = n.val →
      let b := s.burners.nth n
      let cfg := s.settings.burners.nth n
      let stopping := timedRec cfg .stopping false false cfg.timing.postPurgeTime (min b.proven cfg.timing.k) b
      let flame := b.scanA.verdict = .flame ∨ b.scanB.verdict = .flame
      (b.state = .lockedOut ∨ b.state = .idle ∨ b.state = .stopping →
        exec (.burnerStop tag burner) s = .next (replied 0x21 tag .ok [] s)) ∧
      (¬ (b.state = .lockedOut ∨ b.state = .idle ∨ b.state = .stopping) →
        ∃ t, exec (.burnerStop tag burner) s = .next (replied 0x21 tag .ok [] t) ∧ burnerFrame n s t ∧ linesOff n s t ∧
          changesPosted s t ∧ alarmActive t (burnerAlarm n 12) = false ∧ alarmActive t (burnerAlarm n 5) = false ∧
          (b.state = .purge ∨ b.state = .pilotTrial → t.burners.nth n = untimedRec cfg .idle false true b) ∧
          (b.state = .mainTrial ∨ b.state = .firing → posted (.burner n .stopping) .routine s t ∧
            (cfg.timing.postPurgeTime ≠ 0 → t.burners.nth n = stopping) ∧
            (cfg.timing.postPurgeTime = 0 → flame →
              t.burners.nth n = lockedRec cfg .falseFlame s.clock stopping) ∧
            (cfg.timing.postPurgeTime = 0 → ¬ flame → t.burners.nth n = untimedRec cfg .idle false true stopping)))

/-- RESET LOCKOUT: RANGE for a burner of 3 or more; from LOCKED-OUT with E-STOP HEALTHY, no alarm 98 and no scanner FLAME the
burner enters IDLE with its timing set latched, its latched alarms clear and first-out group n is rearmed; otherwise STATE
and no change. The kiln mode stays, but for the end of a SHUTDOWN that still had the burner pending. -/
def Obligations.LockoutIsReset : Prop :=
  ∀ (tag burner : Byte) (s : State), s.link.restartPending = false →
    (3 ≤ burner.toNat → exec (.resetLockout tag burner) s = .next (replied 0x22 tag .range [] s)) ∧
    ∀ n : Fin 3, burner.toNat = n.val →
      let b := s.burners.nth n
      let ready := b.state = .lockedOut ∧ s.points.estop.healthy = true ∧ alarmActive s 98 = false ∧
        b.scanA.verdict ≠ .flame ∧ b.scanB.verdict ≠ .flame
      (ready → ∃ t, exec (.resetLockout tag burner) s = .next (replied 0x22 tag .ok [] t) ∧ burnerFrame n s t ∧
        changesPosted s t ∧
        t.burners.nth n = untimedRec (s.settings.burners.nth n) .idle false true b ∧
        (∀ k : Fin 16, k ∈ ([0, 1, 2, 3, 4, 6] : List (Fin 16)) → alarmActive t (burnerAlarm n k) = false) ∧
        t.rep.alarms.groups.nth ⟨n.val, by omega⟩ = { armed := true, first := none, firstTime := 0, subsequent := 0 }) ∧
      (¬ ready → exec (.resetLockout tag burner) s = .next (replied 0x22 tag .state [] s))

/-- A flame window expiry judges both scanners on the latched Cmin and Cmax, updates the proven and dark counts and the
disagreement timer, restarts the flame timer, and moves the burner: false flame in IDLE and PURGE, proof in PILOT-TRIAL to
MAIN-TRIAL with the ignition line driven at its light-off rate, loss of flame in MAIN-TRIAL and FIRING. The window in
progress at an entry into IDLE is not judged (the flag that says so is the model's, assumption log 32). SCANNER FAULT alarms
follow their verdicts. The light-off frequency is formed with the Kf in force (R44). The flame timer restarts with the set
latched before the transition (the model's choice, assumption log 20). The kiln mode follows the burner. -/
def Obligations.FlameWindowIsJudged : Prop :=
  ∀ (n : Fin 3) (s : State),
    let b := s.burners.nth n
    let cfg := s.settings.burners.nth n
    let verdict := fun (c : Nat) =>
      if c < b.latched.cmin then Verdict.dark else if c ≤ b.latched.cmax then .flame else .fault
    let va := verdict b.scanA.counter
    let vb := verdict b.scanB.counter
    let any := va = .flame ∨ vb = .flame
    let j : BurnerRec :=
      { b with
        flameTimer := Config.ms b.latched.flameWindow
        scanA := { counter := 0, last := b.scanA.counter, verdict := va }
        scanB := { counter := 0, last := b.scanB.counter, verdict := vb }
        proven := if va = .flame ∧ vb = .flame then min b.latched.k (b.proven + 1) else 0
        dark := if any then 0 else min 65535 (b.dark + 1)
        disagree := if va = .flame ↔ vb = .flame then none
                    else some (b.disagree.getD (Config.sec b.latched.disagreeTime))
        unjudged := false }
    let gone := b.darkLimit ≤ j.dark ∨ (va = .fault ∧ vb = .fault)
    ∃ t, exec (.flameWindowExpiry n) s = .next t ∧ burnerFrame n s t ∧
      changesPosted s t ∧
      (va = .fault → b.scanA.verdict ≠ .fault → alarmActive t (burnerAlarm n 7) = true) ∧
      (va ≠ .fault → alarmActive t (burnerAlarm n 7) = false) ∧
      (vb = .fault → b.scanB.verdict ≠ .fault → alarmActive t (burnerAlarm n 8) = true) ∧
      (vb ≠ .fault → alarmActive t (burnerAlarm n 8) = false) ∧
      (va = vb → alarmActive t (burnerAlarm n 9) = false) ∧
      (b.state = .idle ∨ b.state = .purge →
        (b.unjudged = false → any → t.burners.nth n = lockedRec cfg .falseFlame s.clock j) ∧
        (b.unjudged = true ∨ ¬ any → t.burners.nth n = j)) ∧
      (b.state = .pilotTrial →
        (j.proven = b.latched.k →
          t.burners.nth n =
            timedRec cfg .mainTrial true true cfg.timing.mainTrialTime (min j.proven cfg.timing.k) j ∧
          ∀ m, cfg.ignitionLine = some m → (lineCfg s m).configured = true → (lineCfg s m).burner = n →
            (lineRec s m).actual ≠ .tripped → assigned s (.lineDrive m) = true →
            (lineRec t m).actual = .starting ∧ (lineRec t m).rate = (lineCfg s m).lightOff ∧
            lineDriven m s.channels.nth t) ∧
        (j.proven ≠ b.latched.k → t.burners.nth n = j)) ∧
      (b.state = .mainTrial →
        (gone → t.burners.nth n = lockedRec cfg .mainFail s.clock j) ∧ (¬ gone → t.burners.nth n = j)) ∧
      (b.state = .firing →
        (gone → t.burners.nth n = lockedRec cfg .flameFail s.clock j) ∧ (¬ gone → t.burners.nth n = j)) ∧
      (b.state = .lockedOut ∨ b.state = .stopping → t.burners.nth n = j)

/-- The expiries of a running step timer and of the stale grace: PURGE to PILOT-TRIAL, PILOT-TRIAL not proven to LOCKED-OUT,
MAIN-TRIAL to FIRING when proven and else to LOCKED-OUT, STOPPING to IDLE or by false flame to LOCKED-OUT, the grace to
LOCKED-OUT. The kiln mode follows the burner: a lockout of burner 0 in PRODUCTION makes it UPSET, and the last pending burner
that comes to rest in SHUTDOWN makes it OFF. The expiry of a timer that does not run changes nothing (the model's choice,
assumption log 2). -/
def Obligations.BurnerTimersExpire : Prop :=
  ∀ (n : Fin 3) (s : State),
    let b := s.burners.nth n
    let cfg := s.settings.burners.nth n
    let runs := fun (st : BurnerState) => b.state = st ∧ b.stepRunning = true
    let leaves := fun (c : Instr) (r : BurnerRec) => ∃ t, exec c s = .next t ∧ burnerFrame n s t ∧
      changesPosted s t ∧ t.burners.nth n = r
    let flame := b.scanA.verdict = .flame ∨ b.scanB.verdict = .flame
    (runs .purge → leaves (.purgeExpiry n) (timedRec cfg .pilotTrial true false cfg.timing.pilotTrialTime 0 b)) ∧
    (¬ runs .purge → exec (.purgeExpiry n) s = .next s) ∧
    (runs .pilotTrial → b.proven ≠ b.latched.k →
      leaves (.pilotTrialExpiry n) (lockedRec cfg .pilotFail s.clock b)) ∧
    (¬ runs .pilotTrial ∨ b.proven = b.latched.k → exec (.pilotTrialExpiry n) s = .next s) ∧
    (runs .mainTrial → b.proven = b.latched.k →
      leaves (.mainTrialExpiry n) (untimedRec cfg .firing true b.unjudged b)) ∧
    (runs .mainTrial → b.proven ≠ b.latched.k →
      leaves (.mainTrialExpiry n) (lockedRec cfg .mainFail s.clock b)) ∧
    (¬ runs .mainTrial → exec (.mainTrialExpiry n) s = .next s) ∧
    (runs .stopping → ¬ flame → leaves (.postPurgeExpiry n) (untimedRec cfg .idle false true b)) ∧
    (runs .stopping → flame → leaves (.postPurgeExpiry n) (lockedRec cfg .falseFlame s.clock b)) ∧
    (¬ runs .stopping → exec (.postPurgeExpiry n) s = .next s) ∧
    (b.grace.isSome → b.state ≠ .lockedOut →
      leaves (.graceExpiry n) (lockedRec cfg .interlockStale s.clock b)) ∧
    (b.grace = none → exec (.graceExpiry n) s = .next s)

/-- A scanner edge counts one pulse of its scanner, saturating at 65,535, and changes nothing else; the expiry of a running
disagreement timer stops it and raises alarm 16n + 9, and the expiry of a stopped one changes nothing (the model's choice,
assumption log 2). -/
def Obligations.ScannersAreCounted : Prop :=
  ∀ (n : Fin 3) (s : State),
    let b := s.burners.nth n
    let counted := fun (x : ScannerRec) => { x with counter := min 65535 (x.counter + 1) }
    let withBurner := fun (x : BurnerRec) => { s with burners := s.burners.put n x }
    exec (.scannerEdge n .a) s = .next (withBurner { b with scanA := counted b.scanA }) ∧
    exec (.scannerEdge n .b) s = .next (withBurner { b with scanB := counted b.scanB }) ∧
    (b.disagree.isSome → ∃ t, exec (.disagreementExpiry n) s = .next t ∧
      reportFrame (· = burnerAlarm n 9) (withBurner { b with disagree := none }) t ∧
      alarmActive t (burnerAlarm n 9) = true) ∧
    (b.disagree = none → exec (.disagreementExpiry n) s = .next s)

/-- The entry into LOCKED-OUT: outputs off and cause, time and timing set in the record, the cause's latched alarm raised,
INTERLOCK STALE and PURGE HELD cleared, one lockout counted, its BURNER notice posted URGENT, every line of the burner OFF
unless TRIPPED, UPSET when burner 0 locks out in PRODUCTION, OFF when the last burner of the pending shutdown set locks out
in SHUTDOWN, and the kiln mode as it was in every other case; a burner in LOCKED-OUT keeps its cause and nothing changes. -/
def Obligations.LockoutEntry : Prop :=
  ∀ (n : Fin 3) (cause : LockoutCause) (s : State),
    let t := lockOut n cause s
    (burnerState s n = .lockedOut → t = s) ∧
    (burnerState s n ≠ .lockedOut →
      burnerFrame n s t ∧ linesOff n s t ∧ changesPosted s t ∧
      t.burners.nth n = lockedRec (s.settings.burners.nth n) cause s.clock (s.burners.nth n) ∧
      (∀ k, causeAlarm cause = some k → alarmActive t (burnerAlarm n k) = true) ∧
      alarmActive t (burnerAlarm n 5) = false ∧ alarmActive t (burnerAlarm n 12) = false ∧
      (t.rep.shift.openRec.burners.nth n).lockouts = min 65535 ((s.rep.shift.openRec.burners.nth n).lockouts + 1) ∧
      (burnerState s n = .firing ∨ burnerState s n = .mainTrial →
        (t.fuel.demands.nth n).shortfall = 0 ∧ (t.fuel.demands.nth n).overfire = 0) ∧
      (n = 0 → s.kiln.mode = .production → t.kiln = { mode := .upset, pendingShutdown := Tab.fill false }) ∧
      (n ≠ 0 ∨ s.kiln.mode ≠ .production → s.kiln.mode ≠ .shutdown → t.kiln = s.kiln) ∧
      (s.kiln.mode = .shutdown → s.kiln.pendingShutdown.nth n = true →
        (∀ k, k ≠ n → s.kiln.pendingShutdown.nth k = false) →
        t.kiln = { mode := .off, pendingShutdown := Tab.fill false }))

/-! Kiln mode -/

/-- SET MODE: RANGE for a code of 5 or more, OK with no change for the mode held, OK where Table 6-2 allows the change, else
STATE; every reply carries the mode held after the request. A change posts its MODE notice, and those of the lines and
burners it brings. A change to SHUTDOWN stops every burner, with PURGE HELD cleared on leaving PURGE and INTERLOCK STALE on
leaving FIRING, and the mode is OFF at once when none is left to stop. -/
def Obligations.SetModeFollowsTable : Prop :=
  ∀ (tag mode : Byte) (s : State), s.link.restartPending = false →
    let held := fun (t : State) => [BitVec.ofNat 8 t.kiln.mode.code]
    (5 ≤ mode.toNat → exec (.setMode tag mode) s = .next (replied 0x18 tag .range (held s) s)) ∧
    ∀ md : KilnMode, mode.toNat = md.code →
      let now := s.kiln.mode
      let allowed := (md = .heatUp ∧ now ≠ .heatUp) ∨
        (md = .production ∧ (now = .heatUp ∨ now = .upset) ∧ burnerState s 0 = .firing ∧
          (s.cooler.state = .running ∨ s.cooler.state = .pileUp)) ∨
        (md = .shutdown ∧ (now = .heatUp ∨ now = .production ∨ now = .upset))
      let stopped := fun (n : Fin 3) =>
        let b := s.burners.nth n
        let timing := (s.settings.burners.nth n).timing
        match b.state with
        | .purge | .pilotTrial => BurnerState.idle
        | .mainTrial | .firing =>
          if timing.postPurgeTime ≠ 0 then .stopping
          else if b.scanA.verdict = .flame ∨ b.scanB.verdict = .flame then .lockedOut else .idle
        | .lockedOut | .idle | .stopping => b.state
      (md = now → exec (.setMode tag mode) s = .next (replied 0x18 tag .ok (held s) s)) ∧
      (md ≠ now → ¬ allowed → exec (.setMode tag mode) s = .next (replied 0x18 tag .state (held s) s)) ∧
      (allowed → ∃ t, exec (.setMode tag mode) s = .next (replied 0x18 tag .ok (held t) t) ∧
        t = { s with burners := t.burners, fuel := t.fuel, channels := t.channels, kiln := t.kiln, rep := t.rep } ∧
        fuelKept s t ∧ channelsKept s t ∧ repKept s t ∧ changesPosted s t ∧
        posted (.mode md) (if md = .upset then .urgent else .routine) s t ∧
        (md ≠ .shutdown → t.burners = s.burners ∧ t.kiln = { mode := md, pendingShutdown := Tab.fill false }) ∧
        (md = .shutdown → (∀ n, burnerState t n = stopped n) ∧
          (∀ n, burnerState s n = .purge → alarmActive t (burnerAlarm n 12) = false) ∧
          (∀ n, burnerState s n = .firing → alarmActive t (burnerAlarm n 5) = false) ∧
          (∀ n, burnerState s n = .mainTrial ∨ burnerState s n = .firing → posted (.burner n .stopping) .routine s t) ∧
          (if ∀ n, (stopped n).atRest = true then t.kiln = { mode := .off, pendingShutdown := Tab.fill false }
           else t.kiln.mode = .shutdown ∧ ∀ n, t.kiln.pendingShutdown.nth n = !(stopped n).atRest)))

/-! Fuel lines -/

/-- The fuel requests: RANGE for a burner of 3 or more and a line of 6 or more. SET DEMAND takes the target clamped to the
maximum heat. LINE OFF puts the line OFF, but for a TRIPPED one and the ignition line of a burner in MAIN-TRIAL. LINE AUTO
and LINE MANUAL are refused STATE on an unconfigured or TRIPPED line, LINE MANUAL takes its rate clamped to [Rmin, Rmax], and
a line that may run, an ALT-SOLID one under the conditions of R53, starts at Rmin, whose frequency by the Kf in force is handed
to its drive; one that runs already enters the state requested, or stays STARTING, with its commanded rate and all else kept
(that it keeps assigned heat and target rate when it leaves AUTO is the model's choice, assumption log 39), and the ignition
line of a burner in MAIN-TRIAL keeps its state and rate. Changes of state post their LINE notices. RESET LINE
takes a TRIPPED line to OFF with FEED FAULT cleared, and is refused STATE on any other. -/
def Obligations.FuelRequestsAct : Prop :=
  ∀ (tag id : Byte) (target : Word) (rate : Half) (s : State), s.link.restartPending = false →
    (3 ≤ id.toNat → exec (.setDemand tag id target) s = .next (replied 0x23 tag .range [] s)) ∧
    (∀ n : Fin 3, id.toNat = n.val →
      let taken := min target.toNat (s.settings.demand.nth n).maxHeat
      exec (.setDemand tag id target) s =
        .next (replied 0x23 tag .ok ([if taken = target.toNat then 0 else 1] ++ beBytes 4 taken)
          { s with fuel := { s.fuel with
            demands := s.fuel.demands.put n { s.fuel.demands.nth n with target := taken } } })) ∧
    (6 ≤ id.toNat →
      exec (.lineOff tag id) s = .next (replied 0x28 tag .range [] s) ∧
      exec (.lineAuto tag id) s = .next (replied 0x29 tag .range [] s) ∧
      exec (.lineManual tag id rate) s = .next (replied 0x2A tag .range [] s) ∧
      exec (.resetLine tag id) s = .next (replied 0x2B tag .range [] s)) ∧
    ∀ m : Fin 6, id.toNat = m.val →
      let x := lineRec s m
      let cfg := lineCfg s m
      let refused := cfg.configured = false ∨ x.actual = .tripped
      let lit := s.fuel.ignition.nth cfg.burner = some m ∧ x.actual.runs = true
      let taken := clamp rate.toNat cfg.rmin cfg.rmax
      let others := fun (t : State) => lineFrame s t ∧ changesPosted s t ∧ t.fuel.demands = s.fuel.demands ∧
        ∀ k, (lineCfg s k).burner ≠ cfg.burner → lineRec t k = lineRec s k
      let inlet := s.settings.demand.nth cfg.burner
      let supported := linesLawful s ∧ s.kiln.mode = .production ∧
        (∀ p, inlet.inletPoint = some p → ∃ v, freshValue s (some p) = some v ∧ inlet.inletMin.toInt ≤ v) ∧
        ∃ k, (lineCfg s k).burner = cfg.burner ∧ (lineCfg s k).kind ≠ .altSolid ∧
          ((lineRec s k).actual = .auto ∨ (lineRec s k).actual = .manual)
      let acts := fun (r : LineState) (y : LineRec) (t : State) =>
        (burnerState s cfg.burner = .firing → s.fuel.ignition.nth cfg.burner ≠ some m →
          cfg.kind ≠ .altSolid ∨ supported → assigned s (.lineDrive m) = true →
          (x.actual.runs = false →
            (lineRec t m).actual = .starting ∧ (lineRec t m).rate = cfg.rmin ∧ lineDriven m s.channels.nth t) ∧
          (x.actual = .starting → lineRec t m = y) ∧
          (x.actual = .auto ∨ x.actual = .manual → lineRec t m = { y with actual := r })) ∧
        (lit → burnerState s cfg.burner = .mainTrial → lineRec t m = y)
      (cfg.configured = false → exec (.lineOff tag id) s = .next (replied 0x28 tag .ok [] s)) ∧
      (cfg.configured = true → ∃ t, exec (.lineOff tag id) s = .next (replied 0x28 tag .ok [] t) ∧ others t ∧
        (lineRec t m).requested = .off ∧ (x.actual = .tripped → (lineRec t m).actual = .tripped) ∧
        (x.actual ≠ .tripped → ¬ (lit ∧ burnerState s cfg.burner = .mainTrial) → (lineRec t m).actual = .off) ∧
        (lit → burnerState s cfg.burner = .mainTrial → (lineRec t m).actual = x.actual)) ∧
      (refused → exec (.lineAuto tag id) s = .next (replied 0x29 tag .state [] s) ∧
        exec (.lineManual tag id rate) s = .next (replied 0x2A tag .state [] s)) ∧
      (¬ refused →
        (∃ t, exec (.lineAuto tag id) s = .next (replied 0x29 tag .ok [] t) ∧ others t ∧
          (lineRec t m).requested = .auto ∧ acts .auto { x with requested := .auto } t) ∧
        (∃ t, exec (.lineManual tag id rate) s =
            .next (replied 0x2A tag .ok ([if taken = rate.toNat then 0 else 1] ++ beBytes 2 taken) t) ∧ others t ∧
          (lineRec t m).requested = .manual ∧ (lineRec t m).manualRate = taken ∧
          acts .manual { x with requested := .manual, manualRate := taken } t)) ∧
      (x.actual ≠ .tripped → exec (.resetLine tag id) s = .next (replied 0x2B tag .state [] s)) ∧
      (x.actual = .tripped → ∃ t, exec (.resetLine tag id) s = .next (replied 0x2B tag .ok [] t) ∧ others t ∧
        (lineRec t m).actual = .off ∧ (lineRec t m).requested = .off ∧ alarmActive t (lineAlarm m 0) = false)

/-- The heat split over the AUTO lines of a burner in backup order: each begins with its share of the demand, clamped to its
limits (S1, S2); the ALT-SOLID lines give back what exceeds the cap, one at a time in reverse order (S3); then heat is
offered in order, or taken back in reverse order (S4), each line taking or giving by the sums as they stand at its turn. The
AUTO lines of a burner come in backup order, by rank and then by number. With Hmin at most Hmax every assigned heat lies in its
line's limits; the sum exceeds the demand, and the ALT sum the substitution cap, only where every line, or every ALT-SOLID line,
stands at its Hmin; and a shortfall is left only where every line is at its Hmax or is ALT-SOLID with the cap reached. No
line is added or dropped. -/
def Obligations.HeatSplitKeepsLimits : Prop :=
  (∀ (d perMille : Nat) (xs : List Alloc),
    let ys := heatSplit d perMille xs
    let cap := d * perMille / 1000
    let share := fun (x : Alloc) => clamp (d * x.share / 1000) x.hmin x.hmax
    let shared := xs.map fun x => { x with a := share x }
    ys.length = xs.length ∧
    (∃ ws : List Alloc, ws.length = xs.length ∧ ∀ (i : Nat) (x : Alloc), xs[i]? = some x →
      let before := altSum (shared.take (i + 1) ++ ws.drop (i + 1))
      let w := share x - if x.alt then min (before - cap) (share x - x.hmin) else 0
      let now := ys.take i ++ ws.drop i
      let room := min (d - heatSum now) (x.hmax - w)
      let back := heatSum (ws.take (i + 1) ++ ys.drop (i + 1))
      let y := if heatSum ws ≤ d then w + (if x.alt then min room (cap - altSum now) else room)
        else w - min (back - d) (w - x.hmin)
      ws[i]? = some { x with a := w } ∧ ys[i]? = some { x with a := y }) ∧
    ((∀ x ∈ xs, x.hmin ≤ x.hmax) →
      (∀ y ∈ ys, y.hmin ≤ y.a ∧ y.a ≤ y.hmax) ∧
      (d < heatSum ys → ∀ y ∈ ys, y.a = y.hmin) ∧
      (cap < altSum ys → ∀ y ∈ ys, y.alt = true → y.a = y.hmin) ∧
      (heatSum ys < d → ∀ y ∈ ys, y.a = y.hmax ∨ (y.alt = true ∧ cap ≤ altSum ys)))) ∧
  ∀ (s : State) (n : Fin 3),
    let xs := autoLines s n
    xs.Pairwise (fun x y => (lineCfg s x.line).rank < (lineCfg s y.line).rank ∨
      ((lineCfg s x.line).rank = (lineCfg s y.line).rank ∧ x.line < y.line)) ∧
    (∀ m, (∃ x ∈ xs, x.line = m) ↔
      (lineCfg s m).burner = n ∧ (lineRec s m).actual = .auto ∧ (lineCfg s m).rank < 8) ∧
    ∀ x ∈ xs, let cfg := lineCfg s x.line
      x = { line := x.line, alt := decide (cfg.kind = .altSolid), share := cfg.share, hmin := cfg.rmin * cfg.cv / 3600,
            hmax := cfg.rmax * cfg.cv / 3600, a := 0 }

/-- A control period: every line with a rate above 0 integrates mass and heat over the whole milliseconds that have passed,
metered by its fresh weigh point and else by its rate, into the kg, the metered seconds and the MJ of the open shift with
their carries; the rest of a millisecond is carried and the timer restarts with the setting in force. A line that was
STARTING no longer is and keeps its drive; a line that stays in AUTO moves one ramp toward the target of its assigned heat,
one that stays in MANUAL takes its manual rate, and each is handed the drive frequency of its rate, with DRIVE LIMIT. The
demand record of a FIRING burner takes the target after the silence fallback, the last trim, the effective demand, the heat
left to the split, shortfall and overfire of the split, and the shortfall period count, with their alarms; its lines take the
heat that the split assigns; the record of another burner is as it was. Each line's CV and Kf are those written before, and are
in force until the next processing (R44). A SYNC edge ends the period only with SYNC enable ON, and with no burner FIRING it
integrates alone, by the CV in force; that it takes no written CV or Kf is read from R44 and R70 (DEDUCED, assumption log 38).
The counts of a period, its loaded length at an expiry and the length less what is left at a SYNC edge, and the carried rest
are assumption log 29; that MANUAL rates are set at stage E4 is log 23. -/
def Obligations.ControlPeriodIsProcessed : Prop :=
  ∀ s : State,
    let factors := fun (m : Fin 6) (taken : Bool) =>
      if taken then { cv := (lineCfg s m).cv, kf := (lineCfg s m).kf } else s.fuel.factors.nth m
    let processed := fun (counts : Nat) (taken : Bool) (t : State) =>
      let total := counts + s.fuel.fraction
      let ms := total / 4000
      let sat := fun (n : Nat) => min 4294967295 n
      let had := s.rep.shift.openRec
      let got := t.rep.shift.openRec
      let carry := s.rep.shift.carries
      let left := t.rep.shift.carries
      let weighed := fun (m : Fin 6) => freshValue s (lineCfg s m).weighPoint
      let grams := fun (m : Fin 6) =>
        let rate := match weighed m with
          | some v => (clampInt v 0 65535).toNat
          | none => (lineRec s m).rate
        rate * ms + (lineRec s m).massRem
      let joules := fun (m : Fin 6) => grams m / 3600 * (factors m taken).cv + (lineRec s m).heatRem
      let runs := fun (m : Fin 6) => (lineRec s m).rate ≠ 0
      let heat := fun (p : Fin 6 → Bool) =>
        ((List.finRange 6).map fun m => if p m = true ∧ runs m then joules m / 1000 else 0).sum
      t = { s with fuel := t.fuel, channels := t.channels, rep := t.rep } ∧ channelsKept s t ∧ repKept s t ∧
      changesPosted s t ∧
      t.fuel.fraction = total % 4000 ∧ t.fuel.periodLeft = Config.ms s.settings.fuel.controlPeriod ∧
      t.fuel.periodLength = Config.ms s.settings.fuel.controlPeriod ∧ t.fuel.ignition = s.fuel.ignition ∧
      (∀ m, t.fuel.factors.nth m = factors m taken) ∧
      (∀ m,
        let x := lineRec s m
        let y := lineRec t m
        let old := had.lines.nth m
        let short := carry.lines.nth m
        (¬ runs m → y.massRem = x.massRem ∧ y.heatRem = x.heatRem ∧ y.metering = x.metering ∧
          got.lines.nth m = old ∧ left.lines.nth m = short) ∧
        (runs m → y.massRem = grams m % 3600 ∧ y.heatRem = joules m % 1000 ∧
          let kg := sat (old.kg + (short.grams + grams m / 3600) / 1000)
          let rest := (short.grams + grams m / 3600) % 1000
          match weighed m with
          | some _ => y.metering = .weigh ∧ alarmActive t (lineAlarm m 1) = false ∧
              got.lines.nth m = { old with kg := kg, weighSeconds := sat (old.weighSeconds + (short.weighMs + ms) / 1000) } ∧
              left.lines.nth m = { short with grams := rest, weighMs := (short.weighMs + ms) % 1000 }
          | none => y.metering = .volumetric ∧
              ((lineCfg s m).weighPoint.isSome → y.actual = x.actual → alarmActive t (lineAlarm m 1) = true) ∧
              got.lines.nth m =
                { old with kg := kg, volumetricSeconds := sat (old.volumetricSeconds + (short.volumetricMs + ms) / 1000) } ∧
              left.lines.nth m = { short with grams := rest, volumetricMs := (short.volumetricMs + ms) % 1000 })) ∧
      (∀ n,
        let own := fun m => decide ((lineCfg s m).burner = n)
        let kj := carry.burnerKJ.nth n + heat own
        ((∀ m, runs m → own m = false) →
          got.burners.nth n = had.burners.nth n ∧ left.burnerKJ.nth n = carry.burnerKJ.nth n) ∧
        ((∃ m, runs m ∧ own m = true) →
          got.burners.nth n = { had.burners.nth n with heatMJ := sat ((had.burners.nth n).heatMJ + kj / 1000) } ∧
          left.burnerKJ.nth n = kj % 1000)) ∧
      ((∀ m, ¬ runs m) → got.totalMJ = had.totalMJ ∧ got.altMJ = had.altMJ ∧ left.totalKJ = carry.totalKJ ∧
        left.altKJ = carry.altKJ) ∧
      ((∃ m, runs m) →
        let all := carry.totalKJ + heat fun _ => true
        let alt := carry.altKJ + heat fun m => decide ((lineCfg s m).kind = .altSolid)
        got.totalMJ = sat (had.totalMJ + all / 1000) ∧ left.totalKJ = all % 1000 ∧
        got.altMJ = sat (had.altMJ + alt / 1000) ∧ left.altKJ = alt % 1000)
    let driven := fun (t : State) =>
      ∀ m,
        let cfg := lineCfg s m
        let x := lineRec s m
        let y := lineRec t m
        (x.actual = .starting → y.actual ≠ .starting) ∧
        (x.actual = .starting → y.actual.runs = true → y.rate = x.rate ∧
          ∀ c, s.settings.channelOf (.lineDrive m) = some c →
            t.channels.nth c = { s.channels.nth c with emitted := (t.channels.nth c).emitted }) ∧
        (x.actual = .auto → burnerState s cfg.burner = .firing → y.actual = .auto →
          y.target = clamp (y.assigned * 3600 / cfg.cv) cfg.rmin cfg.rmax ∧ y.rate = rampTo x.rate y.target cfg.ramp ∧
          lineDriven m s.channels.nth t) ∧
        (x.actual = .manual → burnerState s cfg.burner = .firing → y.actual = .manual →
          y.rate = clamp x.manualRate cfg.rmin cfg.rmax ∧ lineDriven m s.channels.nth t)
    let demanded := fun (t : State) =>
      ∀ n,
        let d := s.fuel.demands.nth n
        let cfg := s.settings.demand.nth n
        let trimmed := s.settings.trim
        let target := if s.link.state = .silent ∧ s.settings.general.fallback = .ramp then
          rampTo d.target (min cfg.fallbackDemand cfg.maxHeat) cfg.fallbackRamp else d.target
        let air := freshValue s trimmed.airPoint
        let trim := if n = 0 then
            match trimmed.airPoint, air with
            | none, _ => 0
            | some _, some v => clampInt ((v - trimmed.tref) * trimmed.ktrim) (-trimmed.trimMax) trimmed.trimMax
            | some _, none => d.trim
          else d.trim
        let d1 := if n = 0 then ((target : Int) - trim).toNat else target
        let d2 := if n = 0 ∧ s.kiln.mode = .heatUp then min d1 trimmed.heatUpCap else d1
        let effective := if s.cooler.cutback then min d2 (target * s.settings.fuel.cutback / 1000) else d2
        let fixed := ((List.finRange 6).map fun m =>
          let x := lineRec s m
          let line := lineCfg s m
          if line.burner = n ∧ x.actual = .manual then clamp x.manualRate line.rmin line.rmax * line.cv / 3600
          else if line.burner = n ∧ x.actual = .starting then x.rate * line.cv / 3600 else 0).sum
        let split := effective - fixed
        let lines := heatSplit split cfg.substCap (autoLines s n)
        let sum := heatSum lines
        let count := if cfg.shortfallLimit < split - sum then min 5 (d.shortCount + 1) else 0
        (burnerState s n ≠ .firing → t.fuel.demands.nth n = d ∧
          ∀ m, (lineCfg s m).burner = n → (lineRec t m).assigned = (lineRec s m).assigned) ∧
        (burnerState s n = .firing →
          t.fuel.demands.nth n =
            { target := target, trim := trim, effective := effective, split := split, shortfall := split - sum
              overfire := sum - split, shortCount := count } ∧
          (∀ m, (lineCfg s m).burner = n → (lineRec t m).assigned = ((lines.find? (·.line = m)).map (·.a)).getD 0) ∧
          (count = 5 → d.shortCount < 5 → alarmActive t (burnerAlarm n 10) = true) ∧
          (count = 0 → alarmActive t (burnerAlarm n 10) = false) ∧
          alarmActive t (burnerAlarm n 11) = decide (split < sum) ∧
          (n = 0 → trimmed.airPoint.isSome → alarmActive t 86 = air.isNone))
    let firing := ∃ n, burnerState s n = .firing
    (∃ t, exec .controlPeriodExpiry s = .next t ∧ processed s.fuel.periodLength true t ∧ driven t ∧ demanded t) ∧
    (s.settings.general.syncEnable = false → exec .syncEdge s = .next s) ∧
    (s.settings.general.syncEnable = true → ∃ t, exec .syncEdge s = .next t ∧
      processed (s.fuel.periodLength - s.fuel.periodLeft) (decide firing) t ∧ (firing → driven t) ∧ demanded t ∧
      (¬ firing → t.channels = s.channels ∧ ∀ m, (lineRec t m).actual = (lineRec s m).actual ∧
        (lineRec t m).rate = (lineRec s m).rate))

/-- A feedback window expiry: the edges and the drive cycles of the window are captured; a short window counts toward the
fault limit and any other clears the count; below the limit the window restarts and nothing else changes, at the limit the
line is TRIPPED with rate 0 and its drive halted, FEED FAULT, its LINE notice and one trip counted, and no line or channel of
another burner changes. The expiry of a stopped
window does nothing (the model's choice, assumption log 2), and the stored expected count stops at the largest value of its
field (assumption log 30). -/
def Obligations.FeedbackWindowIsJudged : Prop :=
  ∀ (m : Fin 6) (s : State),
    let x := lineRec s m
    let cfg := lineCfg s m
    let f := match s.settings.channelOf (.lineFeedback m) with
      | some c => (s.channels.nth c).edges
      | none => 0
    let cycles := match s.settings.channelOf (.lineDrive m) with
      | some c => (s.channels.nth c).emitted
      | none => 0
    let captured := fun (c : Fin 24) =>
      let ch := s.channels.nth c
      { ch with edges := if s.settings.channelOf (.lineFeedback m) = some c then 0 else ch.edges
                emitted := if s.settings.channelOf (.lineDrive m) = some c then 0 else ch.emitted }
    let expected := cycles * cfg.ratio / 1000
    let faults := if 10 ≤ expected ∧ f * 1000 < expected * (1000 - cfg.tolerance) then min 10 (x.faults + 1) else 0
    let y := { x with lastF := f, lastExpected := min 4294967295 expected, faults := faults
                      window := some (Config.sec cfg.window) }
    (x.window = none → exec (.feedbackWindowExpiry m) s = .next s) ∧
    (x.window.isSome → faults < cfg.faultLimit →
      exec (.feedbackWindowExpiry m) s =
        .next { s with fuel := { s.fuel with lines := s.fuel.lines.put m y }, channels := Tab.make captured }) ∧
    (x.window.isSome → cfg.faultLimit ≤ faults →
      ∃ t, exec (.feedbackWindowExpiry m) s = .next t ∧ lineFrame s t ∧ changesPosted s t ∧
        t.fuel.demands = s.fuel.demands ∧
        (∀ k, (lineCfg s k).burner ≠ cfg.burner → lineRec t k = lineRec s k) ∧
        (∀ c, (∀ k, (lineCfg s k).burner = cfg.burner → (s.settings.channels.nth c).owner ≠ some (.lineDrive k) ∧
          (s.settings.channels.nth c).owner ≠ some (.lineFeedback k)) → t.channels.nth c = s.channels.nth c) ∧
        (lineRec t m).lastF = f ∧ (lineRec t m).lastExpected = min 4294967295 expected ∧
        (∀ c, s.settings.channelOf (.lineFeedback m) = some c → t.channels.nth c = captured c) ∧
        (lineRec t m).actual = .tripped ∧ (lineRec t m).rate = 0 ∧ (lineRec t m).window = none ∧
        lineDriven m captured t ∧ alarmActive t (lineAlarm m 0) = true ∧
        (t.rep.shift.openRec.lines.nth m).trips = min 65535 ((s.rep.shift.openRec.lines.nth m).trips + 1))

/-! Pulse channels -/

/-- The conversion of a frequency above 0: k is the prescaler setting, or with AUTO the smallest k of 0 to 11 whose P is at
most 65,535, and 11 where none is; P is clamped to [2, 65,535] with the marker that says so, and the setting is one the
channel can emit. A frequency of 0 halts the channel and is not converted; that the halt clears the prescaler's count too is
the model's choice (assumption log 10). -/
def Obligations.FrequencyIsConverted : Prop :=
  ∀ (pre : Option (Fin 12)) (f : Nat), 0 < f →
    let x := (convertFreq pre f).1
    let marker := (convertFreq pre f).2
    let period := fun (k : Nat) => 400000000 / (2 ^ (k + 1) * f)
    (∀ k, pre = some k → x.k = k.val) ∧
    (pre = none → (∀ j, j < x.k → 65535 < period j) ∧ (x.k < 11 → period x.k ≤ 65535)) ∧
    x.k ≤ 11 ∧ 2 ≤ x.p ∧ x.p ≤ 65535 ∧ x.h = 0 ∧
    (65535 < period x.k → x.p = 65535 ∧ marker = .lowLimit) ∧
    (period x.k < 2 → x.p = 2 ∧ marker = .highLimit) ∧
    (2 ≤ period x.k → period x.k ≤ 65535 → x.p = period x.k ∧ marker = .none) ∧
    ∀ (cfg : ChannelCfg) (ch : ChannelRec), cfg.prescaler = pre →
      handFreq cfg f ch = { handTo cfg.mode x ch with marker := marker } ∧
      handFreq cfg 0 ch = { ch with high := false, running := false, staged := none, position := 0, prescale := 0,
                                    marker := .none }

/-- A setting handed to a HALTED output channel starts it in that event: active setting, run flag RUNNING, position 0, a
FREQ output HIGH, a DUTY output HIGH exactly when H is above 0, the staged slot empty, the counters not changed; the
emitted-cycle counter counts at the end of the first cycle. -/
def Obligations.HaltedChannelStarts : Prop :=
  ∀ (mode : ChannelMode) (x : PulseSetting) (ch : ChannelRec), ch.running = false →
    let t := handTo mode x ch
    t.active = some x ∧ t.running = true ∧ t.position = 0 ∧ t.staged = none ∧
    (mode = .freq → t.high = true) ∧ (mode = .duty → (t.high = true ↔ 0 < x.h)) ∧
    t.emitted = ch.emitted ∧ t.edges = ch.edges ∧ t.marker = ch.marker ∧
    (endCycle mode t).emitted = min 4294967295 (ch.emitted + 1)

/-- A setting handed to a RUNNING output channel is staged, in place of one already staged; the active setting runs on, and
the cycle end makes the last one staged active. A setting equal to the active one changes nothing at the cycle end. Taken
before the cycle end it becomes active there; taken after it, it waits for the following one. The marker of a staged
frequency is given when it is handed over. -/
def Obligations.RunningChannelStages : Prop :=
  ∀ (mode : ChannelMode) (x y a : PulseSetting) (ch : ChannelRec), ch.running = true → ch.active = some a →
    handTo mode x ch = { ch with staged := some x } ∧
    handTo mode y (handTo mode x ch) = { ch with staged := some y } ∧
    (endCycle mode (handTo mode y (handTo mode x ch))).active = some y ∧
    (endCycle mode (handTo mode y (handTo mode x ch))).staged = none ∧
    (ch.staged = none → endCycle mode (handTo mode a ch) = endCycle mode ch) ∧
    (ch.staged = none → (handTo mode x (endCycle mode ch)).active = some a ∧
      (handTo mode x (endCycle mode ch)).staged = some x ∧
      (endCycle mode (handTo mode x (endCycle mode ch))).active = some x) ∧
    ∀ (cfg : ChannelCfg) (f : Nat), cfg.mode = mode → 0 < f →
      handFreq cfg f ch = { ch with staged := some (convertFreq cfg.prescaler f).1, marker := (convertFreq cfg.prescaler f).2 }

/-- The events of a channel: the end of a RUNNING cycle counts it, takes the staged setting and starts the next cycle; the
FREQ output falls at P and the DUTY output at H unless H is P; a COUNT edge is counted, in COUNT alone. The pin is driven at
the output level in FREQ and DUTY, read in COUNT and undriven in OFF. On a channel that is HALTED or in another mode the
events change nothing (the model's choice, assumption log 2); that a cycle starts with the prescaler's count at 0 is
assumption log 10, and that an event sets the position it stands for assumption log 11 (the model's choices). -/
def Obligations.ChannelEventsAct : Prop :=
  ∀ (c : Fin 24) (s : State),
    let ch := s.channels.nth c
    let mode := (s.settings.channels.nth c).mode
    let withChannel := fun (x : ChannelRec) => { s with channels := s.channels.put c x }
    (ch.running = false →
      exec (.cycleEnd c) s = .next s ∧ exec (.freqHalfCycle c) s = .next s ∧ exec (.dutyHighEnd c) s = .next s) ∧
    (∀ x, ch.running = true → ch.active = some x →
      let next := ch.staged.getD x
      exec (.cycleEnd c) s =
        .next (withChannel { ch with
          emitted := min 4294967295 (ch.emitted + 1), active := some next, staged := none, position := 0, prescale := 0
          high := if mode = .duty then decide (0 < next.h) else true }) ∧
      (ch.high = true → mode = .freq → 0 < x.p →
        exec (.freqHalfCycle c) s = .next (withChannel { ch with high := false, position := x.p })) ∧
      (ch.high = true → mode = .duty → x.h < x.p →
        exec (.dutyHighEnd c) s = .next (withChannel { ch with high := false, position := x.h })) ∧
      (x.p ≤ x.h → exec (.dutyHighEnd c) s = .next s)) ∧
    (mode ≠ .freq → exec (.freqHalfCycle c) s = .next s) ∧
    (mode ≠ .duty → exec (.dutyHighEnd c) s = .next s) ∧
    (mode = .count →
      exec (.countEdge c) s = .next (withChannel { ch with edges := min 4294967295 (ch.edges + 1) })) ∧
    (mode ≠ .count → exec (.countEdge c) s = .next s) ∧
    (mode = .freq ∨ mode = .duty → channelPin s c = .driven ch.high) ∧ (mode = .count → channelPin s c = .input) ∧
    (mode = .off → channelPin s c = .undriven)

/-! Cooler -/

/-- The cooler requests: COOLER START is refused STATE without a drive for grate 0, starts every grate with a drive from
STANDBY and TRIPPED with s0 at smin of grate 0, and restarts the STALLED grates of a running cooler, each started grate with its
speed handed to its drive and its window speed at its speed (assumption log 22); COOLER STOP stops every grate, halts the drives
of those that ran, and puts the fans at the fan minimum; SET FANS is refused LENGTH without six references and stores each
clamped to 1,000. A changed applied reference is handed to its fan's channel, and a change of state posts its notice. That a
start uses written Kd, smin, smax and ratio at once is assumption log 44. -/
def Obligations.CoolerRequestsAct : Prop :=
  ∀ (tag : Byte) (refs : List Half) (s : State), s.link.restartPending = false →
    let up := s.cooler.state = .running ∨ s.cooler.state = .pileUp
    let drive := fun (n : Fin 3) => assigned s (.grateDrive n)
    let frame := fun (t : State) => t = { s with cooler := t.cooler, channels := t.channels, rep := t.rep } ∧
      t.cooler = { t.cooler with pressure := s.cooler.pressure, pressureFresh := s.cooler.pressureFresh,
                                 boost := s.cooler.boost, periodLeft := s.cooler.periodLeft,
                                 periodLength := s.cooler.periodLength } ∧ repKept s t ∧
      changesPosted s t ∧ fansHanded s t ∧
      (∀ c m, (s.settings.channels.nth c).owner = some (.lineDrive m) ∨
          (s.settings.channels.nth c).owner = some (.lineFeedback m) → t.channels.nth c = s.channels.nth c) ∧
      alarmsKept (fun a => 80 ≤ a.val ∧ a.val ≤ 85 ∨ byLoss a) s t
    let started := fun (t : State) (n : Fin 3) =>
      let g := t.cooler.grates.nth n
      if drive n then g.state = .running ∧ g.stalls = 0 ∧ g.windowValid = false ∧ grateDriven n s.channels.nth t ∧
        g.speed = if n = 0 then t.cooler.s0 else
          clamp (t.cooler.s0 * (s.settings.grates.nth n).ratio / 1000) (s.settings.grates.nth n).smin
            (s.settings.grates.nth n).smax
      else g.state = .stopped
    let undriven := fun (n : Fin 3) (t : State) =>
      ∀ c, s.settings.channelOf (.grateDrive n) = some c → t.channels.nth c = s.channels.nth c
    (¬ up → drive 0 = false → exec (.coolerStart tag) s = .next (replied 0x30 tag .state [] s)) ∧
    (¬ up → drive 0 = true → ∃ t, exec (.coolerStart tag) s = .next (replied 0x30 tag .ok [] t) ∧ frame t ∧
      t.cooler.state = .running ∧ t.cooler.s0 = (s.settings.grates.nth 0).smin ∧ t.cooler.pileCount = 0 ∧
      (∀ n, started t n) ∧ t.cooler.cutback = false ∧ (∀ n, (t.cooler.fans.nth n).applied = appliedOf t n) ∧
      ∀ a : Fin 512, 81 ≤ a.val → a.val ≤ 84 → alarmActive t a = false) ∧
    (up → ∃ t, exec (.coolerStart tag) s = .next (replied 0x30 tag .ok [] t) ∧ frame t ∧
      t.cooler.state = s.cooler.state ∧ t.cooler.s0 = s.cooler.s0 ∧ t.cooler.fans = s.cooler.fans ∧
      ∀ n, ((s.cooler.grates.nth n).state = .stalled → started t n ∧ alarmActive t (stallAlarm n) = false) ∧
        ((s.cooler.grates.nth n).state ≠ .stalled → t.cooler.grates.nth n = s.cooler.grates.nth n ∧ undriven n t)) ∧
    (s.cooler.state = .standby → exec (.coolerStop tag) s = .next (replied 0x31 tag .ok [] s)) ∧
    (s.cooler.state ≠ .standby → ∃ t, exec (.coolerStop tag) s = .next (replied 0x31 tag .ok [] t) ∧ frame t ∧
      t.cooler.state = .standby ∧ t.cooler.s0 = s.cooler.s0 ∧ t.cooler.pileCount = 0 ∧ t.cooler.cutback = false ∧
      (∀ n, (t.cooler.grates.nth n).state = .stopped ∧ (t.cooler.grates.nth n).stalls = 0 ∧
        ((s.cooler.grates.nth n).state = .running → grateHalted n s.channels.nth t) ∧
        ((s.cooler.grates.nth n).state ≠ .running → undriven n t)) ∧
      (∀ n, (t.cooler.fans.nth n).applied = s.settings.cooler.fanMin ∧
        (t.cooler.fans.nth n).hostRef = (s.cooler.fans.nth n).hostRef) ∧
      alarmActive t 80 = false ∧ alarmActive t 85 = false) ∧
    (refs.length ≠ 6 → exec (.setFans tag refs) s = .next (replied 0x32 tag .length [] s)) ∧
    (refs.length = 6 →
      let taken := refs.map fun r => min r.toNat 1000
      ∃ t, exec (.setFans tag refs) s =
          .next (replied 0x32 tag .ok ([if ∀ r ∈ refs, r.toNat ≤ 1000 then 0 else 1] ++ taken.flatMap (beBytes 2)) t) ∧
        t = { s with cooler := { s.cooler with fans := t.cooler.fans }, channels := t.channels } ∧
        fansHanded s t ∧ (∀ n, undriven n t) ∧
        ∀ n : Fin 6, (t.cooler.fans.nth n).hostRef = taken.getD n.val 0 ∧
          (t.cooler.fans.nth n).applied = appliedOf t n)

/-- A cooler period: strokes and drive cycles are captured; a RUNNING grate with a valid window and a feedback channel is
judged, and at its stall limit it is STALLED, grate 0 taking the cooler to TRIPPED; in RUNNING and PILE-UP the pressure is
read, pile-up counted and s0 set, and each RUNNING grate has its speed handed to its drive; the drive of a grate that stops or
stalls is halted; in every state the outlet boost is evaluated and the fans are handed the references of Table 5-5. A period
that begins in PILE-UP counts its pile-up seconds, and changes of state post their notices. The window speed set at each
period is assumption log 22, and the one hand-over of the fans, at step 7, log 31. -/
def Obligations.CoolerPeriodIsProcessed : Prop :=
  ∀ s : State, ∃ t, exec .coolerPeriodExpiry s = .next t ∧
    let cfg := s.settings.cooler
    let c := s.cooler
    let grate := fun (n : Fin 3) => c.grates.nth n
    let strokes := fun (n : Fin 3) => match s.settings.channelOf (.grateFeedback n) with
      | some ch => (s.channels.nth ch).edges
      | none => 0
    let expected := fun (n : Fin 3) => (grate n).windowSpeed * c.periodLength / 600
    let stalls := fun (n : Fin 3) =>
      if 1 ≤ expected n ∧ strokes n * 2 < expected n then min 20 ((grate n).stalls + 1) else 0
    let judged := fun (n : Fin 3) => (grate n).state = .running ∧ (grate n).windowValid = true ∧
      assigned s (.grateFeedback n) = true
    let stalls' := fun (n : Fin 3) => judged n ∧ cfg.stallPeriods ≤ stalls n
    let boost := match cfg.outletPoint, freshValue s cfg.outletPoint with
      | none, _ => false
      | some _, some v => decide (cfg.boostTemp.toInt ≤ v)
      | some _, none => c.boost
    let smax := (s.settings.grates.nth 0).smax
    let up := c.state = .running ∨ c.state = .pileUp
    let toggles := fun (k : Nat) => cfg.pilePeriods ≤ k
    let captured := fun (ch : Fin 24) => { s.channels.nth ch with emitted := 0 }
    -- the frame, the timer, the captures, the fans
    t = { s with cooler := t.cooler, channels := t.channels, fuel := t.fuel, kiln := t.kiln, rep := t.rep } ∧
    fuelKept s t ∧ repKept s t ∧ changesPosted s t ∧
    t.rep.shift.openRec.pileUpSeconds =
      (if c.state = .pileUp then min 4294967295 (s.rep.shift.openRec.pileUpSeconds + c.periodLength)
       else s.rep.shift.openRec.pileUpSeconds) ∧
    t.cooler.periodLeft = Config.sec cfg.period ∧ t.cooler.periodLength = cfg.period ∧
    (∀ n ch, s.settings.channelOf (.grateFeedback n) = some ch →
      (t.cooler.grates.nth n).strokes = (s.channels.nth ch).edges ∧ (t.channels.nth ch).edges = 0 ∧
      t.rep.shift.openRec.strokes.nth n =
        min 4294967295 (s.rep.shift.openRec.strokes.nth n + (s.channels.nth ch).edges)) ∧
    (∀ n ch, s.settings.channelOf (.grateDrive n) = some ch →
      (t.cooler.grates.nth n).cycles = (s.channels.nth ch).emitted ∧ (t.channels.nth ch).emitted = 0) ∧
    (∀ n, (t.cooler.grates.nth n).state = .running → (t.cooler.grates.nth n).windowValid = true) ∧
    t.cooler.boost = boost ∧
    (∀ n : Fin 6,
      let host := (c.fans.nth n).hostRef
      let raised := if boost then max host cfg.boostRef else host
      (t.cooler.fans.nth n).hostRef = host ∧
      (t.cooler.fans.nth n).applied =
        match t.cooler.state with
        | .standby => cfg.fanMin
        | .running | .tripped => raised
        | .pileUp => if n.val < 2 then 1000 else raised) ∧
    (∀ n, fanHanded n s.channels.nth t) ∧
    -- stalls and the trip
    (stalls' 0 →
      t.cooler.state = .tripped ∧ (t.cooler.grates.nth 0).state = .stalled ∧ t.cooler.cutback = true ∧
      (∀ n, (t.cooler.grates.nth n).state ≠ .running ∧ (t.cooler.grates.nth n).speed = (grate n).speed ∧
        ((grate n).state = .running → grateHalted n captured t)) ∧
      t.cooler.s0 = c.s0 ∧ t.cooler.pileCount = 0 ∧ alarmActive t 81 = true ∧ alarmActive t 84 = true ∧
      alarmActive t 80 = false ∧ alarmActive t 85 = false ∧
      t.rep.shift.openRec.coolerTrips = min 65535 (s.rep.shift.openRec.coolerTrips + 1) ∧
      (if s.kiln.mode = .production then t.kiln = { mode := .upset, pendingShutdown := Tab.fill false }
       else t.kiln = s.kiln)) ∧
    (∀ n, n ≠ 0 → ¬ stalls' 0 → stalls' n →
      (t.cooler.grates.nth n).state = .stalled ∧ alarmActive t (stallAlarm n) = true ∧ grateHalted n captured t) ∧
    (∀ n, ¬ stalls' 0 → judged n → ¬ stalls' n →
      (t.cooler.grates.nth n).state = .running ∧ (t.cooler.grates.nth n).expected = expected n ∧
      (t.cooler.grates.nth n).stalls = stalls n) ∧
    -- pressure, pile-up and speed
    (¬ stalls' 0 → t.kiln = s.kiln ∧
      (¬ up → t.cooler.state = c.state ∧ t.cooler.s0 = c.s0 ∧ t.cooler.pileCount = c.pileCount) ∧
      (∀ n ch, s.settings.channelOf (.grateDrive n) = some ch →
        (grate n).state ≠ .running ∨ (¬ up ∧ ¬ stalls' n) → t.channels.nth ch = captured ch) ∧
      (up → ∀ n, (t.cooler.grates.nth n).state = .running → grateDriven n captured t) ∧
      (up → freshValue s cfg.pressurePoint = none →
        t.cooler.pressureFresh = false ∧ alarmActive t 85 = true ∧ t.cooler.state = c.state ∧
        t.cooler.pileCount = c.pileCount ∧ t.cooler.s0 = if c.state = .pileUp then smax else c.s0) ∧
      (∀ p, up → freshValue s cfg.pressurePoint = some p →
        let counted := if c.state = .pileUp then p < (cfg.ppile : Int) - cfg.pileHysteresis else (cfg.ppile : Int) < p
        let k := if counted then min 20 (c.pileCount + 1) else 0
        let step := clampInt (Int.tdiv ((p - cfg.pref) * cfg.kg) 1000) (-cfg.stepMax) cfg.stepMax
        t.cooler.pressureFresh = true ∧ t.cooler.pressure.toInt = p ∧ alarmActive t 85 = false ∧
        t.cooler.pileCount = (if toggles k then 0 else k) ∧
        t.cooler.state = (if toggles k then (if c.state = .pileUp then .running else .pileUp) else c.state) ∧
        (toggles k → alarmActive t 80 = (c.state == .running)) ∧
        t.cooler.s0 = (if t.cooler.state = .pileUp then smax
          else (clampInt (c.s0 + step) (s.settings.grates.nth 0).smin smax).toNat)) ∧
      (up → ∀ n, (t.cooler.grates.nth n).speed =
        if n = 0 then t.cooler.s0 else
          clamp (t.cooler.s0 * (s.settings.grates.nth n).ratio / 1000) (s.settings.grates.nth n).smin
            (s.settings.grates.nth n).smax))

/-! Alarms -/

/-- Table 7-4 for a raise and a clear: a raise of an alarm that is not active makes it UNACK-ACTIVE, stamps it, counts it by
priority, in its record and in the current flood bucket, and captures its first-out group, and an active one stays as it is; a
clear takes UNACK-ACTIVE to UNACK-CLEARED and ACK-ACTIVE to NORMAL, stamps it, and leaves the other states. Each change is
handed to the Notice Queues, in the alarm's queued cell or in a new one, or held back with the held notice set. No record of
another alarm changes but those of 97 and 100, by a lost notice and the flood: a raise that brings the flood sum above the
threshold turns the flood ON and raises alarm 100. The release of an alarm whose held notice is set and which nothing holds
back clears the flag and hands over one notice, none for an alarm in NORMAL; any other release changes nothing. -/
def Obligations.AlarmTransitions : Prop :=
  ∀ (a : Fin 512) (s : State),
    let x := s.rep.alarms.recs.nth a
    let q := s.rep.notices
    let cfg := s.settings.alarms.nth a
    let up := raise a s
    let down := clear a s
    let kept := x.shelved = true ∨ cfg.suppress.getLsbD s.rep.alarms.mode.code = true ∨
      (s.rep.alarms.flood = true ∧ cfg.priority = 0)
    let fits := kept ∨ q.link.nth a ≠ none ∨ q.free ≠ []
    let withRec := fun (y : AlarmRec) (q : NoticeQueues) =>
      let recs := s.rep.alarms.recs.put a y
      { s with rep := { s.rep with
        alarms := { s.rep.alarms with recs := recs, unackCount := recs.count (·.state.unacked),
                                      activeCount := recs.count (·.state.active) }
        notices := q } }
    let changed := fun (y : AlarmRec) => { y with time := s.clock, held := x.held || decide kept }
    let handed := fun (st : AlarmState) => if kept then q else handedTo a st s
    let raised := changed { x with state := .unackActive, raises := min 255 (x.raises + 1) }
    let cleared := fun (st : AlarmState) => changed { x with state := st }
    reportFrame (· = a) s up ∧ reportFrame (· = a) s down ∧
    (∀ b, b ≠ a → ¬ byLoss b → up.rep.alarms.recs.nth b = s.rep.alarms.recs.nth b ∧
      down.rep.alarms.recs.nth b = s.rep.alarms.recs.nth b) ∧
    (x.state.active = true → up = s) ∧
    (x.state.active = false →
      up.rep.alarms.recs.nth a = raised ∧
      (∀ g, cfg.group = some g → (s.rep.alarms.groups.nth g).armed = true →
        (up.rep.alarms.groups.nth g).armed = false ∧ (up.rep.alarms.groups.nth g).first = some a ∧
        (up.rep.alarms.groups.nth g).firstTime = s.clock) ∧
      (let p := cfg.priority
       s.rep.shift.openRec.raises.nth p < 4294967295 →
        s.rep.shift.openRec.raises.nth p < up.rep.shift.openRec.raises.nth p) ∧
      ∀ (now : Nat) (older : List Nat), s.rep.alarms.buckets = now :: older →
        (∃ k, min 65535 (now + 1) ≤ k ∧ up.rep.alarms.buckets = k :: older) ∧
        (s.rep.alarms.flood = true → up.rep.alarms.flood = true) ∧
        (s.rep.alarms.flood = false → s.settings.floodThreshold < min 65535 (now + 1) + older.sum →
          up.rep.alarms.flood = true ∧ alarmActive up 100 = true) ∧
        (s.rep.alarms.flood = false → up.rep.alarms.flood = true →
          s.settings.floodThreshold < up.rep.alarms.buckets.sum) ∧
        (fits →
          let t := withRec raised (handed .unackActive)
          let buckets := min 65535 (now + 1) :: older
          let groups := match cfg.group with
            | none => s.rep.alarms.groups
            | some g => s.rep.alarms.groups.put g
                (let y := s.rep.alarms.groups.nth g
                 if y.armed then { armed := false, first := some a, firstTime := s.clock, subsequent := 0 }
                 else { y with subsequent := min 65535 (y.subsequent + 1) })
          let raises := s.rep.shift.openRec.raises
          let flood := fun (on : Bool) => { t with rep := { t.rep with
            alarms := { t.rep.alarms with buckets := buckets, groups := groups, flood := on }
            shift := { s.rep.shift with openRec := { s.rep.shift.openRec with
              raises := raises.put cfg.priority (min 4294967295 (raises.nth cfg.priority + 1)) } } } }
          up = if s.rep.alarms.flood = false ∧ s.settings.floodThreshold < buckets.sum then raise 100 (flood true)
               else flood s.rep.alarms.flood)) ∧
    (x.state.active = false → down = s) ∧
    (x.state = .unackActive →
      (a ≠ 97 → a ≠ 100 → down.rep.alarms.recs.nth a = cleared .unackCleared) ∧
      (fits → down = withRec (cleared .unackCleared) (handed .unackCleared))) ∧
    (x.state = .ackActive →
      (a ≠ 97 → a ≠ 100 → down.rep.alarms.recs.nth a = cleared .normal) ∧
      (fits → down = withRec (cleared .normal) (handed .normal))) ∧
    (let released := onRep (fun e => releaseAlarm e a) s
     let told := fun (q : NoticeQueues) => { s with rep := { s.rep with
       alarms := { s.rep.alarms with recs := s.rep.alarms.recs.put a { x with held := false } }, notices := q } }
     let due := x.held = true ∧ ¬ kept
     (¬ due → released = s) ∧
     (due → x.state = .normal → released = told q) ∧
     (due → x.state ≠ .normal → fits → released = told (handedTo a x.state s)))

/-- The alarm block requests: a block that R134 does not take, and a shelve duration outside 1 to 480 min, are refused RANGE.
ACK ALARMS takes UNACK-ACTIVE to ACK-ACTIVE and UNACK-CLEARED to NORMAL over the block, queues no new cell, changes the
queued cell of an acknowledged alarm in place unless it is held back, and answers how many it acknowledged; SHELVE ALARMS and
UNSHELVE ALARMS set and clear the shelf over the block and answer how many changed. UNSHELVE ALARMS releases the held notices
that no other hold keeps: unless a notice is lost it clears their flags, changes the queued cells of those alarms, and files a
new cell for each of the others, in alarm number order, none for an alarm in NORMAL, and nothing else changes. REARM FIRST-OUT
arms its group. -/
def Obligations.AlarmRequestsAct : Prop :=
  ∀ (tag : Byte) (base : Half) (e : Byte) (minutes : Half) (group : Byte) (s : State), s.link.restartPending = false →
    let taken := base.toNat < 512 ∧ e.toNat ≤ 9 ∧ base.toNat % 2 ^ e.toNat = 0
    let inside := fun (a : Fin 512) => base.toNat ≤ a.val ∧ a.val < base.toNat + 2 ^ e.toNat
    let rec_ := fun (t : State) (a : Fin 512) => t.rep.alarms.recs.nth a
    let updates := fun (a : Fin 512) (c : Fin 256) => inside a ∧ (rec_ s a).state.unacked = true ∧
      s.rep.notices.link.nth a = some c ∧ heldBack (env s) a s.rep.alarms = false
    let number := fun (p : Fin 512 → Bool) => beBytes 2 ((List.finRange 512).filter p).length
    (¬ taken → exec (.ackAlarms tag base e) s = .next (replied 0x38 tag .range [] s) ∧
      exec (.shelveAlarms tag base e minutes) s = .next (replied 0x39 tag .range [] s) ∧
      exec (.unshelveAlarms tag base e) s = .next (replied 0x3A tag .range [] s)) ∧
    (minutes.toNat = 0 ∨ 480 < minutes.toNat →
      exec (.shelveAlarms tag base e minutes) s = .next (replied 0x39 tag .range [] s)) ∧
    (taken →
      (∃ t, exec (.ackAlarms tag base e) s =
          .next (replied 0x38 tag .ok
            (number (fun a => decide (inside a) && (rec_ s a).state.unacked) ++ beBytes 2 t.rep.alarms.unackCount) t) ∧
        t = { s with rep := { s.rep with
          alarms := { s.rep.alarms with recs := t.rep.alarms.recs, unackCount := t.rep.alarms.unackCount,
                                        activeCount := t.rep.alarms.activeCount }
          notices := { s.rep.notices with cells := t.rep.notices.cells } } } ∧
        (∀ c, (∀ a, ¬ updates a c) → t.rep.notices.cells.nth c = s.rep.notices.cells.nth c) ∧
        ∀ a, (inside a → rec_ t a =
            match (rec_ s a).state with
            | .unackActive => { rec_ s a with state := .ackActive, time := s.clock }
            | .unackCleared => { rec_ s a with state := .normal, time := s.clock }
            | .normal | .ackActive => rec_ s a) ∧
          (¬ inside a → rec_ t a = rec_ s a) ∧
          ∀ c, updates a c → (∀ b, updates b c → b = a) → t.rep.notices.cells.nth c =
            (s.rep.notices.cells.nth c).map fun y =>
              { y with body := .alarm a (rec_ t a).state, lastTime := s.clock, transitions := min 255 (y.transitions + 1) }) ∧
      (1 ≤ minutes.toNat → minutes.toNat ≤ 480 →
        ∃ t, exec (.shelveAlarms tag base e minutes) s =
            .next (replied 0x39 tag .ok (number fun a => decide (inside a) && !(rec_ s a).shelved) t) ∧
          t = { s with rep := { s.rep with alarms := { s.rep.alarms with recs := t.rep.alarms.recs } } } ∧
          ∀ a, (inside a → rec_ t a = { rec_ s a with shelved := true, shelveMinutes := minutes.toNat }) ∧
            (¬ inside a → rec_ t a = rec_ s a)) ∧
      (∃ t, exec (.unshelveAlarms tag base e) s =
          .next (replied 0x3A tag .ok (number fun a => decide (inside a) && (rec_ s a).shelved) t) ∧
        reportFrame (fun _ => False) s t ∧
        (∀ a, (inside a → (rec_ s a).shelved = true → (rec_ t a).shelved = false ∧ (rec_ t a).shelveMinutes = 0) ∧
          (¬ inside a → (rec_ t a).shelved = (rec_ s a).shelved ∧
            (rec_ t a).shelveMinutes = (rec_ s a).shelveMinutes)) ∧
        (nothingLost s t →
          let q := s.rep.notices
          let high := fun (a : Fin 512) => decide (2 ≤ (s.settings.alarms.nth a).priority)
          let due := fun (a : Fin 512) => inside a ∧ (rec_ s a).shelved = true ∧ (rec_ s a).held = true ∧
            (s.settings.alarms.nth a).suppress.getLsbD s.rep.alarms.mode.code = false ∧
            ¬ (s.rep.alarms.flood = true ∧ (s.settings.alarms.nth a).priority = 0)
          let tells := fun (a : Fin 512) => due a ∧ (rec_ s a).state ≠ .normal
          let filed := (List.finRange 512).filter fun a => decide (tells a ∧ q.link.nth a = none)
          let told := fun (cls : NoticeClass) (cells : List (Fin 256)) (as : List (Fin 512)) =>
            cells.map t.rep.notices.cells.nth = as.map fun a => some
              { body := .alarm a (rec_ s a).state, cls := cls, firstTime := s.clock, lastTime := s.clock, transitions := 1 }
          t = { s with rep := { s.rep with alarms := { s.rep.alarms with recs := t.rep.alarms.recs }
                                           notices := t.rep.notices } } ∧
          (∀ a, rec_ t a =
            if inside a ∧ (rec_ s a).shelved = true then
              { rec_ s a with shelved := false, shelveMinutes := 0, held := (rec_ s a).held && !decide (due a) }
            else rec_ s a) ∧
          (∀ a c, tells a → q.link.nth a = some c → t.rep.notices.cells.nth c = (q.cells.nth c).map fun y =>
            { y with body := .alarm a (rec_ s a).state, lastTime := s.clock, transitions := min 255 (y.transitions + 1) }) ∧
          (∀ c, c ∈ q.urgent ∨ c ∈ q.routine → (∀ a, tells a → q.link.nth a ≠ some c) →
            t.rep.notices.cells.nth c = q.cells.nth c) ∧
          q.urgent <+: t.rep.notices.urgent ∧ q.routine <+: t.rep.notices.routine ∧
          told .urgent (t.rep.notices.urgent.drop q.urgent.length) (filed.filter high) ∧
          told .routine (t.rep.notices.routine.drop q.routine.length) (filed.filter fun a => !high a)))) ∧
    (8 ≤ group.toNat → exec (.rearmFirstOut tag group) s = .next (replied 0x3D tag .range [] s)) ∧
    (∀ g : Fin 8, group.toNat = g.val →
      exec (.rearmFirstOut tag group) s =
        .next (replied 0x3D tag .ok [] { s with rep := { s.rep with alarms := { s.rep.alarms with
          groups := s.rep.alarms.groups.put g { armed := true, first := none, firstTime := 0, subsequent := 0 } } } }))

/-- The Alarm Table's timers. A second drops the oldest flood bucket, begins a new one, counts a flood second while the flood
is ON, and turns the flood OFF with alarm 100 cleared when the sum has fallen to half the threshold; a minute lowers every
shelf by one and takes the alarms whose shelf has ended off it. Either releases the held notices whose last hold it ends:
unless a notice is lost, the alarms so released lose the held mark and each that is not in NORMAL has its queued cell changed
or one new cell filed, in alarm number order, and nothing else changes. At the flood OFF this follows the clear of alarm 100,
which the flood holds back no more, with a notice held from its raise released after it (the model's choice, assumption log
35). No other alarm is marked as held or loses the mark. -/
def Obligations.AlarmTimersExpire : Prop :=
  ∀ s : State,
    let x := s.rep.alarms
    let buckets := 0 :: x.buckets.take 9
    let ends := x.flood = true ∧ buckets.sum ≤ s.settings.floodThreshold / 2
    let seconds := if x.flood then min 4294967295 (s.rep.shift.openRec.floodSeconds + 1)
                   else s.rep.shift.openRec.floodSeconds
    let aged := { s with rep := { s.rep with
      alarms := { x with buckets := buckets, secondTimer := Config.sec 1 }
      shift := { s.rep.shift with openRec := { s.rep.shift.openRec with floodSeconds := seconds } } } }
    let suppressed := fun (a : Fin 512) => (s.settings.alarms.nth a).suppress.getLsbD x.mode.code
    let priority0 := fun (a : Fin 512) => decide ((s.settings.alarms.nth a).priority = 0)
    (¬ ends → exec .floodSecondExpiry s = .next aged) ∧
    (ends → ∃ t, exec .floodSecondExpiry s = .next t ∧ t = { s with rep := t.rep } ∧
      (5 ≤ s.settings.floodThreshold →
        reportFrame (fun _ => False) aged t ∧ t.rep.alarms.flood = false ∧ alarmActive t 100 = false ∧
        ∀ a, ¬ byLoss a → (t.rep.alarms.recs.nth a).held =
          ((x.recs.nth a).held && ((x.recs.nth a).shelved || suppressed a))) ∧
      (let cleared :=
         clear 100 { aged with rep := { aged.rep with alarms := { aged.rep.alarms with flood := false } } }
       nothingLost aged t → releasedHeld (fun a =>
         let old := cleared.rep.alarms.recs.nth a
         old.held && !(old.shelved || suppressed a)) cleared t)) ∧
    (∃ t, exec .shelveMinuteExpiry s = .next t ∧
      reportFrame (fun _ => False) { s with rep := { s.rep with alarms := { x with minuteTimer := Config.sec 60 } } } t ∧
      (∀ a, let old := x.recs.nth a
        let new := t.rep.alarms.recs.nth a
        let freed := old.shelved = true ∧ old.shelveMinutes ≤ 1 ∧ suppressed a = false ∧
          (x.flood = false ∨ priority0 a = false)
        (¬ byLoss a → freed → x.flood = t.rep.alarms.flood → new.held = false) ∧
        (¬ byLoss a → ¬ freed → x.flood = t.rep.alarms.flood → new.held = old.held) ∧
        (old.shelved = false → new.shelved = false ∧ new.shelveMinutes = old.shelveMinutes) ∧
        (old.shelved = true → old.shelveMinutes ≤ 1 → new.shelved = false ∧ new.shelveMinutes = 0) ∧
        (old.shelved = true → 1 < old.shelveMinutes →
          new.shelved = true ∧ new.shelveMinutes = old.shelveMinutes - 1)) ∧
      (nothingLost s t →
        let off := fun (y : AlarmRec) => y.shelved && decide (y.shelveMinutes ≤ 1)
        let lowered := fun (y : AlarmRec) =>
          if y.shelved then { y with shelved := !off y, shelveMinutes := y.shelveMinutes - 1 } else y
        let counted := { x with recs := Tab.mapAll lowered x.recs, minuteTimer := Config.sec 60 }
        releasedHeld
          (fun a => (x.recs.nth a).held && off (x.recs.nth a) && !(suppressed a || (x.flood && priority0 a)))
          { s with rep := { s.rep with alarms := counted } } t))

/-! Notices -/

/-- Filing and fetching. A new notice takes the head of the free list and joins the list of its class; with no free cell an
URGENT one takes the cell of the oldest ROUTINE notice, whose alarm loses its link, and any other is dropped; a notice lost
either way counts in the lost count and the open shift, sets NOTICE-LOST and leaves alarm 97 active. A second notice of a
queued alarm changes its cell in place. FETCH NOTICES: a count of 0 or above 16 is refused RANGE and changes nothing.
Otherwise up to n cells are taken in one event, from the head of URGENT and then of ROUTINE; each is copied into the reply,
leaves its list and goes to the tail of the free list, the notice link of each ALARM cell's alarm becomes none, and ATTENTION
follows the lists. The reply carries the number of cells, the lengths of both lists after the request and the cells in the
order taken. That a free cell holds no contents is the model's choice (assumption log 24). -/
def Obligations.NoticesAreFetched : Prop :=
  ∀ (tag n : Byte) (s : State), s.link.restartPending = false →
    let q := s.rep.notices
    let k := n.toNat
    let urgent := q.urgent.drop k
    let routine := q.routine.drop (k - q.urgent.length)
    let taken := q.urgent.take k ++ q.routine.take (k - q.urgent.length)
    (k = 0 ∨ 16 < k → exec (.fetchNotices tag n) s = .next (replied 0x40 tag .range [] s)) ∧
    (1 ≤ k → k ≤ 16 → ∃ t, exec (.fetchNotices tag n) s =
        .next (replied 0x40 tag .ok
          ([BitVec.ofNat 8 taken.length] ++ beBytes 2 urgent.length ++ beBytes 2 routine.length ++
            (taken.filterMap fun c => q.cells.nth c).flatMap cellBytes) t) ∧
      t = { s with rep := { s.rep with notices := t.rep.notices } } ∧
      t.rep.notices.urgent = urgent ∧ t.rep.notices.routine = routine ∧ t.rep.notices.free = q.free ++ taken ∧
      t.rep.notices.lost = q.lost ∧
      t.rep.notices.attention = (decide (urgent ≠ []) || decide (routine ≠ [])) ∧
      (∀ c, c ∈ taken → t.rep.notices.cells.nth c = none) ∧
      (∀ c, c ∉ taken → t.rep.notices.cells.nth c = q.cells.nth c) ∧
      (∀ a c, c ∈ taken → cellAlarm (q.cells.nth c) = some a → t.rep.notices.link.nth a = none) ∧
      ∀ a, (∀ c, c ∈ taken → cellAlarm (q.cells.nth c) ≠ some a) → t.rep.notices.link.nth a = q.link.nth a) ∧
    (∀ x : NoticeCell, (cellBytes x).length = 16) ∧
    (let fresh := fun (b : NoticeBody) (cls : NoticeClass) =>
       ({ body := b, cls := cls, firstTime := s.clock, lastTime := s.clock, transitions := 1 } : NoticeCell)
     let filed := fun (b : NoticeBody) (cls : NoticeClass) => (fileNew s.clock b cls q).1
     let lost := fun (b : NoticeBody) (cls : NoticeClass) => (fileNew s.clock b cls q).2
     let placed := fun (b : NoticeBody) (cls : NoticeClass) (c : Fin 256) (new : NoticeQueues) =>
       new.cells = q.cells.put c (some (fresh b cls)) ∧ new.lost = q.lost ∧ new.attention = true ∧
       (∀ a, noticeAlarm b = some a → new.link.nth a = some c)
     (∀ (b : NoticeBody) (cls : NoticeClass) (c : Fin 256) (rest : List (Fin 256)), q.free = c :: rest →
       lost b cls = false ∧ placed b cls c (filed b cls) ∧ (filed b cls).free = rest ∧
       (filed b cls).urgent = (if cls = .urgent then q.urgent ++ [c] else q.urgent) ∧
       (filed b cls).routine = (if cls = .urgent then q.routine else q.routine ++ [c]) ∧
       ∀ a, noticeAlarm b ≠ some a → (filed b cls).link.nth a = q.link.nth a) ∧
     (∀ (b : NoticeBody) (c : Fin 256) (rest : List (Fin 256)), q.free = [] → q.routine = c :: rest →
       lost b .urgent = true ∧ placed b .urgent c (filed b .urgent) ∧ (filed b .urgent).free = [] ∧
       (filed b .urgent).urgent = q.urgent ++ [c] ∧ (filed b .urgent).routine = rest ∧
       ∀ a, noticeAlarm b ≠ some a → (filed b .urgent).link.nth a =
         if cellAlarm (q.cells.nth c) = some a then none else q.link.nth a) ∧
     (∀ (b : NoticeBody) (cls : NoticeClass), q.free = [] → (cls = .routine ∨ q.routine = []) →
       filed b cls = q ∧ lost b cls = true) ∧
     (∀ (b : NoticeBody) (cls : NoticeClass), noticeAlarm b = none →
       (lost b cls = false → (post b cls s).rep = { s.rep with notices := filed b cls }) ∧
       (lost b cls = true → (post b cls s).rep.sticky.noticeLost = true ∧ alarmActive (post b cls s) 97 = true ∧
         (q.lost < 65535 → q.lost < (post b cls s).rep.notices.lost) ∧
         (s.rep.shift.openRec.noticesLost < 4294967295 →
           s.rep.shift.openRec.noticesLost < (post b cls s).rep.shift.openRec.noticesLost))) ∧
     ∀ (a : Fin 512) (c : Fin 256), q.link.nth a = some c →
       let x := s.rep.alarms.recs.nth a
       (handOver (env s) a s.rep).2 = false ∧
       (handOver (env s) a s.rep).1 = { s.rep with notices := { q with cells := (q.cells.upd c fun cell =>
         cell.map fun y => { y with body := .alarm a x.state, lastTime := s.clock,
                                    transitions := min 255 (y.transitions + 1) }) } })

/-! Shift reports -/

/-- CLOSE SHIFT, HOLD REPORT and RELEASE REPORT: a close takes the lowest EMPTY slot, else the FULL one of hold count 0 with
the lowest sequence number, and stores there the open record with end time, cause and substitution rate, hands it to the
store, opens the next record with every count 0 and posts its SHIFT notice; with no slot it is deferred with alarm 102 and the
open record goes on. That the substitution rate is not clamped to 1,000 is assumption log 46, end time and rate of the new
record log 47, and that the copy of a report being written is not valid log 34. Holds are counted from 0 to 15 on a FULL
slot, and the release that frees a slot performs a deferred close, marked DEFERRED-CLOSE. -/
def Obligations.ShiftRequestsAct : Prop :=
  ∀ (tag : Byte) (seq : Word) (s : State), s.link.restartPending = false →
    let sh := s.rep.shift
    let x := sh.openRec
    let holds := fun (i : Fin 8) => ((sh.ring.nth i).report.map (·.seq)) = some seq.toNat ∧
      ∀ j, j < i → ((sh.ring.nth j).report.map (·.seq)) ≠ some seq.toNat
    let held := fun (i : Fin 8) (h : Nat) =>
      { s with rep := { s.rep with shift := { sh with ring := sh.ring.put i { sh.ring.nth i with hold := h } } } }
    (sh.closePending ≠ .none → exec (.closeShift tag) s = .next (replied 0x48 tag .accepted [] s)) ∧
    (sh.closePending = .none → x.seq = 4294967295 → exec (.closeShift tag) s = .next (replied 0x48 tag .limit [] s)) ∧
    (sh.closePending = .none → x.seq ≠ 4294967295 →
      (∀ i, takesSlot sh.ring i → ∃ t, exec (.closeShift tag) s = .next (replied 0x48 tag .ok (beBytes 4 x.seq) t) ∧
        shiftClosed .request false i s t) ∧
      (ringHeld sh.ring → ∃ t, exec (.closeShift tag) s = .next (replied 0x48 tag .accepted [] t) ∧
        shiftDeferred .request s t)) ∧
    ((∀ i, ¬ holds i) →
      exec (.holdReport tag seq) s = .next (replied 0x49 tag .notFound [] s) ∧
      exec (.releaseReport tag seq) s = .next (replied 0x4A tag .notFound [] s)) ∧
    ∀ i, holds i →
      let h := (sh.ring.nth i).hold
      (h = 15 → exec (.holdReport tag seq) s = .next (replied 0x49 tag .limit [] s)) ∧
      (h ≠ 15 → exec (.holdReport tag seq) s = .next (replied 0x49 tag .ok [BitVec.ofNat 8 (h + 1)] (held i (h + 1)))) ∧
      (h = 0 → exec (.releaseReport tag seq) s = .next (replied 0x4A tag .state [] s)) ∧
      (h ≠ 0 → ¬ (h = 1 ∧ sh.closePending ≠ .none) →
        exec (.releaseReport tag seq) s =
          .next (replied 0x4A tag .ok (BitVec.ofNat 8 (h - 1) :: beBytes 4 0) (held i (h - 1)))) ∧
      (h = 1 → sh.closePending ≠ .none →
        ((∀ j, (sh.ring.nth j).report ≠ none ∧ (j ≠ i → (sh.ring.nth j).hold ≠ 0)) →
          takesSlot (held i 0).rep.shift.ring i) ∧
        ∀ k, takesSlot (held i 0).rep.shift.ring k →
          ∃ t, exec (.releaseReport tag seq) s = .next (replied 0x4A tag .ok (0 :: beBytes 4 x.seq) t) ∧
            shiftClosed sh.closePending true k (held i 0) t)

/-- The shift timer: each second counts the elapsed time, the seconds of the mode held and the firing seconds of every FIRING
burner, and closes the shift when the shift length is reached, that second counted in the report, or defers the close when
every slot is held. While a close is pending, and at sequence number 4,294,967,295, the seconds count on and no close is
taken. That the substitution rate is not clamped to 1,000 is assumption log 46, end time and rate of a new open record log 47,
and that the copy of a report being written is not valid log 34. -/
def Obligations.ShiftTimerCounts : Prop :=
  ∀ s : State,
    let x := s.rep.shift.openRec
    let inc := fun (n : Nat) => min 4294967295 (n + 1)
    let index : Fin 5 := match s.kiln.mode with
      | .off => 0 | .heatUp => 1 | .production => 2 | .upset => 3 | .shutdown => 4
    let counted := { x with
      elapsed := inc x.elapsed
      modeSeconds := x.modeSeconds.put index (inc (x.modeSeconds.nth index))
      burners := Tab.make fun n =>
        let b := x.burners.nth n
        if burnerState s n = .firing then { b with firingSeconds := inc b.firingSeconds } else b }
    let second := { s with rep := { s.rep with shift := { s.rep.shift with timer := Config.sec 1, openRec := counted } } }
    let due := s.settings.general.shiftLength ≠ 0 ∧ s.settings.general.shiftLength * 3600 ≤ inc x.elapsed
    (¬ due ∨ s.rep.shift.closePending ≠ .none ∨ x.seq = 4294967295 → exec .shiftTimerExpiry s = .next second) ∧
    (due → s.rep.shift.closePending = .none → x.seq ≠ 4294967295 →
      (∀ i, takesSlot s.rep.shift.ring i → ∃ t, exec .shiftTimerExpiry s = .next t ∧ shiftClosed .timer false i second t) ∧
      (ringHeld s.rep.shift.ring → ∃ t, exec .shiftTimerExpiry s = .next t ∧ shiftDeferred .timer second t))

/-! Store -/

/-- SAVE SETTINGS, SET LOCK and the completion of a store operation: a settings-class operation is refused BUSY while another
is in flight or pending, starts on an IDLE store and else waits; SET LOCK lowers the level with KEY ON alone, and the level
acts at once; a completed operation writes its copy, image or lock record when its verify is good, and else sets STORE-FAULT
and raises alarm 99, a STORE notice is posted, and the next operation starts, a pending settings-class one before a pending
report, which goes into the copy that R180 chooses; nothing else in the storage changes. STORE_COMPLETE on an
idle store changes nothing (the model's choice, assumption log 2); that the copy, image or lock record of a write in progress
is not valid is assumption log 34. -/
def Obligations.StoreActs : Prop :=
  ∀ (tag level : Byte) (good : Bool) (s : State),
    let st := s.store
    let busy := st.pendingSettings ≠ none ∨
      ∃ op, st.inFlight = some op ∧ (op.kind = .save ∨ op.kind = .lock)
    let idle := st.inFlight = none
    (s.link.restartPending = false →
      (busy → exec (.saveSettings tag) s = .next (replied 0x52 tag .busy [] s)) ∧
      (¬ busy → idle → exec (.saveSettings tag) s =
        .next (replied 0x52 tag .accepted []
          { s with store := { st with inFlight := some (.save s.settings) }, nv := { s.nv with image := none } })) ∧
      (¬ busy → ¬ idle → exec (.saveSettings tag) s =
        .next (replied 0x52 tag .accepted [] { s with store := { st with pendingSettings := some .save } })) ∧
      (4 ≤ level.toNat → exec (.setLock tag level) s = .next (replied 0x53 tag .range [] s)) ∧
      ∀ l : Fin 4, level.toNat = l.val →
        (l < s.lock → s.points.key.on = false → ∃ t, exec (.setLock tag level) s =
            .next (replied 0x53 tag .locked [] t) ∧ t = { s with rep := t.rep } ∧
          t.rep.sticky.protectViolation = true ∧ alarmActive t 101 = true ∧
          alarmsKept (fun a => a = 101 ∨ byLoss a) s t) ∧
        (l = s.lock → exec (.setLock tag level) s = .next (replied 0x53 tag .ok [level] s)) ∧
        (l ≠ s.lock → ¬ (l < s.lock ∧ s.points.key.on = false) →
          (busy → exec (.setLock tag level) s = .next (replied 0x53 tag .busy [] s)) ∧
          (¬ busy → idle → exec (.setLock tag level) s =
            .next (replied 0x53 tag .accepted [level]
              { s with lock := l, store := { st with inFlight := some (.lock l) }
                       nv := { s.nv with lockRecord := none } })) ∧
          (¬ busy → ¬ idle → exec (.setLock tag level) s =
            .next (replied 0x53 tag .accepted [level]
              { s with lock := l, store := { st with pendingSettings := some .lock } })))) ∧
    (idle → exec (.storeComplete good) s = .next s) ∧
    ∀ op, st.inFlight = some op → ∃ t, exec (.storeComplete good) s = .next t ∧
      let nv := if good then
          match op with
          | .save cfg => { s.nv with image := some cfg }
          | .lock l => { s.nv with lockRecord := some l }
          | .report r c => { s.nv with copies := s.nv.copies.put c (some r) }
        else s.nv
      t = { s with rep := t.rep, nv := t.nv, store := t.store } ∧
      (good = true → alarmActive t 99 = false ∧ (op.kind = .save → alarmActive t 98 = false) ∧
        t.rep.sticky.storeFault = s.rep.sticky.storeFault) ∧
      (good = false → alarmActive t 99 = true ∧ t.rep.sticky.storeFault = true) ∧
      alarmsKept (fun a => a = 98 ∨ a = 99 ∨ byLoss a) s t ∧ posted (.store op.kind good) .routine s t ∧
      (st.pendingSettings = none → st.pendingReport = none →
        t.store = { st with inFlight := none } ∧ t.nv = nv) ∧
      (st.pendingSettings = some .save →
        t.store = { inFlight := some (.save s.settings), pendingSettings := none, pendingReport := st.pendingReport } ∧
        t.nv = { nv with image := none }) ∧
      (st.pendingSettings = some .lock →
        t.store = { inFlight := some (.lock s.lock), pendingSettings := none, pendingReport := st.pendingReport } ∧
        t.nv = { nv with lockRecord := none }) ∧
      (∀ r, st.pendingSettings = none → st.pendingReport = some r →
        let c := chooseCopy nv.copies
        t.store = { inFlight := some (.report r c), pendingSettings := none, pendingReport := none } ∧
          t.nv = { nv with copies := nv.copies.put c none })

/-! What holds at reset and is kept by every step -/

/-- `State.reset` is what POWER-ON with both straps low leaves of itself, and it satisfies every invariant stated below. Its
storage, straps and pins are the model's choice (assumption logs 5 and 6). -/
def Obligations.ResetStateHoldsInvariants : Prop :=
  exec (.powerOn false false) State.reset = .next State.reset ∧
    outputsFollow State.reset ∧ forcesAtRest State.reset ∧ modeAgrees State.reset ∧ stoppedLinesRest State.reset ∧
    cutbackAgrees State.reset ∧ countsAgree State.reset ∧ cellsPartition State.reset ∧ attentionShows State.reset ∧
    settingsLawful State.reset ∧ linesLawful State.reset ∧ queuedCellsLinked State.reset

/-- PILOTn and MAINPn stand as the burner's state gives, after every step. -/
def Obligations.OutputsFollowState : Prop := ∀ s t : State, step s = .next t → outputsFollow s → outputsFollow t

/-- The law of the device: no burner is outside IDLE and LOCKED-OUT while one of its interlocks is forced. -/
def Obligations.NoForceOnARunningBurner : Prop := ∀ s t : State, step s = .next t → forcesAtRest s → forcesAtRest t

/-- The pending shutdown set agrees with the kiln mode and the burners, SHUTDOWN holds only while a burner is pending, and the
Alarm Table has been given the mode held, after every step. -/
def Obligations.ModeAgreesWithBurners : Prop := ∀ s t : State, step s = .next t → modeAgrees s → modeAgrees t

/-- The laws of the lines, after every step: a line in OFF, WAITING or TRIPPED has rate 0 and its drive channel HALTED with
its output low; a line in STARTING, AUTO or MANUAL has its rate in [Rmin, Rmax]; every line stands in the state that Table
3-5 gives it, and so does the ignition line of a trial; settings stay as taken writes keep them, which the laws rest on. R52
keeps a line the ignition line until its burner leaves MAIN-TRIAL; that a trip ends this, so that the line stands under the
general rows from then on, is the model's reading (DEDUCED, assumption log 19), and the laws of ignition lines and of Table
3-5 rest on it. From this it follows that a running line is configured, has a drive channel and a FIRING burner, or is the
ignition line of a trial, and that an ALT-SOLID line runs only in PRODUCTION with a support line in AUTO or MANUAL. -/
def Obligations.StoppedLinesStayAtRest : Prop :=
  (∀ s t : State, step s = .next t →
    (stoppedLinesRest s → stoppedLinesRest t) ∧
    (settingsLawful s → settingsLawful t) ∧
    (settingsLawful s → linesLawful s → linesLawful t)) ∧
  ∀ s : State, linesLawful s → runningLinesLawful s ∧ altLinesLawful s

/-- The cutback request agrees with the cooler and its grates, after every step. -/
def Obligations.CutbackFollowsCooler : Prop := ∀ s t : State, step s = .next t → cutbackAgrees s → cutbackAgrees t

/-- The unacknowledged and the active count agree with the alarm records, after every step. -/
def Obligations.AlarmCountsAgree : Prop := ∀ s t : State, step s = .next t → countsAgree s → countsAgree t

/-- Every notice cell stands on exactly one of the free, URGENT and ROUTINE lists, and ATTENTION shows whether a notice
waits, after every step; and the link of an alarm names its one queued cell, exactly when it has one. -/
def Obligations.NoticeCellsArePartitioned : Prop :=
  ∀ s t : State, step s = .next t →
    (cellsPartition s → attentionShows s → cellsPartition t ∧ attentionShows t) ∧
    (cellsPartition s → queuedCellsLinked s → queuedCellsLinked t)
end

