-- ==== Sys2Proof/Laws/State.lean ====
section
/-! SUPPORT. Each field of the state after each named update: the changed field at its new value, the others as they were.
No later proof unfolds a record update. -/

namespace Sys2Proof.Machine

/-! `onRep` -/

@[simp] theorem onRep_settings (f : RepEnv → Reporting → Reporting) (s : State) :
    (onRep f s).settings = s.settings := rfl
@[simp] theorem onRep_lock (f : RepEnv → Reporting → Reporting) (s : State) : (onRep f s).lock = s.lock := rfl
@[simp] theorem onRep_clock (f : RepEnv → Reporting → Reporting) (s : State) : (onRep f s).clock = s.clock := rfl
@[simp] theorem onRep_clockTimer (f : RepEnv → Reporting → Reporting) (s : State) :
    (onRep f s).clockTimer = s.clockTimer := rfl
@[simp] theorem onRep_resetCause (f : RepEnv → Reporting → Reporting) (s : State) :
    (onRep f s).resetCause = s.resetCause := rfl
@[simp] theorem onRep_straps (f : RepEnv → Reporting → Reporting) (s : State) : (onRep f s).straps = s.straps := rfl
@[simp] theorem onRep_points (f : RepEnv → Reporting → Reporting) (s : State) : (onRep f s).points = s.points := rfl
@[simp] theorem onRep_burners (f : RepEnv → Reporting → Reporting) (s : State) :
    (onRep f s).burners = s.burners := rfl
@[simp] theorem onRep_fuel (f : RepEnv → Reporting → Reporting) (s : State) : (onRep f s).fuel = s.fuel := rfl
@[simp] theorem onRep_channels (f : RepEnv → Reporting → Reporting) (s : State) :
    (onRep f s).channels = s.channels := rfl
@[simp] theorem onRep_cooler (f : RepEnv → Reporting → Reporting) (s : State) : (onRep f s).cooler = s.cooler := rfl
@[simp] theorem onRep_kiln (f : RepEnv → Reporting → Reporting) (s : State) : (onRep f s).kiln = s.kiln := rfl
@[simp] theorem onRep_rep (f : RepEnv → Reporting → Reporting) (s : State) : (onRep f s).rep = f (env s) s.rep := rfl
@[simp] theorem onRep_link (f : RepEnv → Reporting → Reporting) (s : State) : (onRep f s).link = s.link := rfl
@[simp] theorem onRep_nv (f : RepEnv → Reporting → Reporting) (s : State) : (onRep f s).nv = s.nv := rfl
@[simp] theorem onRep_store (f : RepEnv → Reporting → Reporting) (s : State) : (onRep f s).store = s.store := rfl
@[simp] theorem onRep_pending (f : RepEnv → Reporting → Reporting) (s : State) :
    (onRep f s).pending = s.pending := rfl

/-! `setSticky` -/

@[simp] theorem setSticky_settings (f : StickyFlags → StickyFlags) (s : State) :
    (setSticky f s).settings = s.settings := rfl
@[simp] theorem setSticky_lock (f : StickyFlags → StickyFlags) (s : State) : (setSticky f s).lock = s.lock := rfl
@[simp] theorem setSticky_clock (f : StickyFlags → StickyFlags) (s : State) : (setSticky f s).clock = s.clock := rfl
@[simp] theorem setSticky_clockTimer (f : StickyFlags → StickyFlags) (s : State) :
    (setSticky f s).clockTimer = s.clockTimer := rfl
@[simp] theorem setSticky_resetCause (f : StickyFlags → StickyFlags) (s : State) :
    (setSticky f s).resetCause = s.resetCause := rfl
@[simp] theorem setSticky_straps (f : StickyFlags → StickyFlags) (s : State) :
    (setSticky f s).straps = s.straps := rfl
@[simp] theorem setSticky_points (f : StickyFlags → StickyFlags) (s : State) :
    (setSticky f s).points = s.points := rfl
@[simp] theorem setSticky_burners (f : StickyFlags → StickyFlags) (s : State) :
    (setSticky f s).burners = s.burners := rfl
@[simp] theorem setSticky_fuel (f : StickyFlags → StickyFlags) (s : State) : (setSticky f s).fuel = s.fuel := rfl
@[simp] theorem setSticky_channels (f : StickyFlags → StickyFlags) (s : State) :
    (setSticky f s).channels = s.channels := rfl
@[simp] theorem setSticky_cooler (f : StickyFlags → StickyFlags) (s : State) :
    (setSticky f s).cooler = s.cooler := rfl
@[simp] theorem setSticky_kiln (f : StickyFlags → StickyFlags) (s : State) : (setSticky f s).kiln = s.kiln := rfl
@[simp] theorem setSticky_rep (f : StickyFlags → StickyFlags) (s : State) :
    (setSticky f s).rep = { s.rep with sticky := f s.rep.sticky } := rfl
@[simp] theorem setSticky_link (f : StickyFlags → StickyFlags) (s : State) : (setSticky f s).link = s.link := rfl
@[simp] theorem setSticky_nv (f : StickyFlags → StickyFlags) (s : State) : (setSticky f s).nv = s.nv := rfl
@[simp] theorem setSticky_store (f : StickyFlags → StickyFlags) (s : State) : (setSticky f s).store = s.store := rfl
@[simp] theorem setSticky_pending (f : StickyFlags → StickyFlags) (s : State) :
    (setSticky f s).pending = s.pending := rfl

/-! `onAccount` -/

@[simp] theorem onAccount_settings (f : ShiftRecord × Carries → ShiftRecord × Carries) (s : State) :
    (onAccount f s).settings = s.settings := rfl
@[simp] theorem onAccount_lock (f : ShiftRecord × Carries → ShiftRecord × Carries) (s : State) :
    (onAccount f s).lock = s.lock := rfl
@[simp] theorem onAccount_clock (f : ShiftRecord × Carries → ShiftRecord × Carries) (s : State) :
    (onAccount f s).clock = s.clock := rfl
@[simp] theorem onAccount_clockTimer (f : ShiftRecord × Carries → ShiftRecord × Carries) (s : State) :
    (onAccount f s).clockTimer = s.clockTimer := rfl
@[simp] theorem onAccount_resetCause (f : ShiftRecord × Carries → ShiftRecord × Carries) (s : State) :
    (onAccount f s).resetCause = s.resetCause := rfl
@[simp] theorem onAccount_straps (f : ShiftRecord × Carries → ShiftRecord × Carries) (s : State) :
    (onAccount f s).straps = s.straps := rfl
@[simp] theorem onAccount_points (f : ShiftRecord × Carries → ShiftRecord × Carries) (s : State) :
    (onAccount f s).points = s.points := rfl
@[simp] theorem onAccount_burners (f : ShiftRecord × Carries → ShiftRecord × Carries) (s : State) :
    (onAccount f s).burners = s.burners := rfl
@[simp] theorem onAccount_fuel (f : ShiftRecord × Carries → ShiftRecord × Carries) (s : State) :
    (onAccount f s).fuel = s.fuel := rfl
@[simp] theorem onAccount_channels (f : ShiftRecord × Carries → ShiftRecord × Carries) (s : State) :
    (onAccount f s).channels = s.channels := rfl
@[simp] theorem onAccount_cooler (f : ShiftRecord × Carries → ShiftRecord × Carries) (s : State) :
    (onAccount f s).cooler = s.cooler := rfl
@[simp] theorem onAccount_kiln (f : ShiftRecord × Carries → ShiftRecord × Carries) (s : State) :
    (onAccount f s).kiln = s.kiln := rfl
@[simp] theorem onAccount_link (f : ShiftRecord × Carries → ShiftRecord × Carries) (s : State) :
    (onAccount f s).link = s.link := rfl
@[simp] theorem onAccount_nv (f : ShiftRecord × Carries → ShiftRecord × Carries) (s : State) :
    (onAccount f s).nv = s.nv := rfl
@[simp] theorem onAccount_store (f : ShiftRecord × Carries → ShiftRecord × Carries) (s : State) :
    (onAccount f s).store = s.store := rfl
@[simp] theorem onAccount_pending (f : ShiftRecord × Carries → ShiftRecord × Carries) (s : State) :
    (onAccount f s).pending = s.pending := rfl

/-! `onChannel` -/

@[simp] theorem onChannel_settings (c : Fin 24) (f : ChannelRec → ChannelRec) (s : State) :
    (onChannel c f s).settings = s.settings := rfl
@[simp] theorem onChannel_lock (c : Fin 24) (f : ChannelRec → ChannelRec) (s : State) :
    (onChannel c f s).lock = s.lock := rfl
@[simp] theorem onChannel_clock (c : Fin 24) (f : ChannelRec → ChannelRec) (s : State) :
    (onChannel c f s).clock = s.clock := rfl
@[simp] theorem onChannel_clockTimer (c : Fin 24) (f : ChannelRec → ChannelRec) (s : State) :
    (onChannel c f s).clockTimer = s.clockTimer := rfl
@[simp] theorem onChannel_resetCause (c : Fin 24) (f : ChannelRec → ChannelRec) (s : State) :
    (onChannel c f s).resetCause = s.resetCause := rfl
@[simp] theorem onChannel_straps (c : Fin 24) (f : ChannelRec → ChannelRec) (s : State) :
    (onChannel c f s).straps = s.straps := rfl
@[simp] theorem onChannel_points (c : Fin 24) (f : ChannelRec → ChannelRec) (s : State) :
    (onChannel c f s).points = s.points := rfl
@[simp] theorem onChannel_burners (c : Fin 24) (f : ChannelRec → ChannelRec) (s : State) :
    (onChannel c f s).burners = s.burners := rfl
@[simp] theorem onChannel_fuel (c : Fin 24) (f : ChannelRec → ChannelRec) (s : State) :
    (onChannel c f s).fuel = s.fuel := rfl
@[simp] theorem onChannel_channels (c : Fin 24) (f : ChannelRec → ChannelRec) (s : State) :
    (onChannel c f s).channels = s.channels.upd c f := rfl
@[simp] theorem onChannel_cooler (c : Fin 24) (f : ChannelRec → ChannelRec) (s : State) :
    (onChannel c f s).cooler = s.cooler := rfl
@[simp] theorem onChannel_kiln (c : Fin 24) (f : ChannelRec → ChannelRec) (s : State) :
    (onChannel c f s).kiln = s.kiln := rfl
@[simp] theorem onChannel_rep (c : Fin 24) (f : ChannelRec → ChannelRec) (s : State) :
    (onChannel c f s).rep = s.rep := rfl
@[simp] theorem onChannel_link (c : Fin 24) (f : ChannelRec → ChannelRec) (s : State) :
    (onChannel c f s).link = s.link := rfl
@[simp] theorem onChannel_nv (c : Fin 24) (f : ChannelRec → ChannelRec) (s : State) :
    (onChannel c f s).nv = s.nv := rfl
@[simp] theorem onChannel_store (c : Fin 24) (f : ChannelRec → ChannelRec) (s : State) :
    (onChannel c f s).store = s.store := rfl
@[simp] theorem onChannel_pending (c : Fin 24) (f : ChannelRec → ChannelRec) (s : State) :
    (onChannel c f s).pending = s.pending := rfl

/-! `onLine` -/

@[simp] theorem onLine_settings (m : Fin 6) (f : LineRec → LineRec) (s : State) :
    (onLine m f s).settings = s.settings := rfl
@[simp] theorem onLine_lock (m : Fin 6) (f : LineRec → LineRec) (s : State) : (onLine m f s).lock = s.lock := rfl
@[simp] theorem onLine_clock (m : Fin 6) (f : LineRec → LineRec) (s : State) : (onLine m f s).clock = s.clock := rfl
@[simp] theorem onLine_clockTimer (m : Fin 6) (f : LineRec → LineRec) (s : State) :
    (onLine m f s).clockTimer = s.clockTimer := rfl
@[simp] theorem onLine_resetCause (m : Fin 6) (f : LineRec → LineRec) (s : State) :
    (onLine m f s).resetCause = s.resetCause := rfl
@[simp] theorem onLine_straps (m : Fin 6) (f : LineRec → LineRec) (s : State) :
    (onLine m f s).straps = s.straps := rfl
@[simp] theorem onLine_points (m : Fin 6) (f : LineRec → LineRec) (s : State) :
    (onLine m f s).points = s.points := rfl
@[simp] theorem onLine_burners (m : Fin 6) (f : LineRec → LineRec) (s : State) :
    (onLine m f s).burners = s.burners := rfl
@[simp] theorem onLine_fuel (m : Fin 6) (f : LineRec → LineRec) (s : State) :
    (onLine m f s).fuel = { s.fuel with lines := s.fuel.lines.upd m f } := rfl
@[simp] theorem onLine_channels (m : Fin 6) (f : LineRec → LineRec) (s : State) :
    (onLine m f s).channels = s.channels := rfl
@[simp] theorem onLine_cooler (m : Fin 6) (f : LineRec → LineRec) (s : State) :
    (onLine m f s).cooler = s.cooler := rfl
@[simp] theorem onLine_kiln (m : Fin 6) (f : LineRec → LineRec) (s : State) : (onLine m f s).kiln = s.kiln := rfl
@[simp] theorem onLine_rep (m : Fin 6) (f : LineRec → LineRec) (s : State) : (onLine m f s).rep = s.rep := rfl
@[simp] theorem onLine_link (m : Fin 6) (f : LineRec → LineRec) (s : State) : (onLine m f s).link = s.link := rfl
@[simp] theorem onLine_nv (m : Fin 6) (f : LineRec → LineRec) (s : State) : (onLine m f s).nv = s.nv := rfl
@[simp] theorem onLine_store (m : Fin 6) (f : LineRec → LineRec) (s : State) : (onLine m f s).store = s.store := rfl
@[simp] theorem onLine_pending (m : Fin 6) (f : LineRec → LineRec) (s : State) :
    (onLine m f s).pending = s.pending := rfl

/-! `takeFactors` -/

@[simp] theorem takeFactors_fuel (s : State) :
    (takeFactors s).fuel = { s.fuel with factors := Tab.mapAll LineCfg.factors s.settings.lines } := rfl
@[simp] theorem takeFactors_settings (s : State) : (takeFactors s).settings = s.settings := rfl
@[simp] theorem takeFactors_lock (s : State) : (takeFactors s).lock = s.lock := rfl
@[simp] theorem takeFactors_clock (s : State) : (takeFactors s).clock = s.clock := rfl
@[simp] theorem takeFactors_clockTimer (s : State) : (takeFactors s).clockTimer = s.clockTimer := rfl
@[simp] theorem takeFactors_resetCause (s : State) : (takeFactors s).resetCause = s.resetCause := rfl
@[simp] theorem takeFactors_straps (s : State) : (takeFactors s).straps = s.straps := rfl
@[simp] theorem takeFactors_points (s : State) : (takeFactors s).points = s.points := rfl
@[simp] theorem takeFactors_burners (s : State) : (takeFactors s).burners = s.burners := rfl
@[simp] theorem takeFactors_channels (s : State) : (takeFactors s).channels = s.channels := rfl
@[simp] theorem takeFactors_cooler (s : State) : (takeFactors s).cooler = s.cooler := rfl
@[simp] theorem takeFactors_kiln (s : State) : (takeFactors s).kiln = s.kiln := rfl
@[simp] theorem takeFactors_rep (s : State) : (takeFactors s).rep = s.rep := rfl
@[simp] theorem takeFactors_link (s : State) : (takeFactors s).link = s.link := rfl
@[simp] theorem takeFactors_nv (s : State) : (takeFactors s).nv = s.nv := rfl
@[simp] theorem takeFactors_store (s : State) : (takeFactors s).store = s.store := rfl
@[simp] theorem takeFactors_pending (s : State) : (takeFactors s).pending = s.pending := rfl

/-! `onDemand` -/

@[simp] theorem onDemand_settings (n : Fin 3) (f : DemandRec → DemandRec) (s : State) :
    (onDemand n f s).settings = s.settings := rfl
@[simp] theorem onDemand_lock (n : Fin 3) (f : DemandRec → DemandRec) (s : State) :
    (onDemand n f s).lock = s.lock := rfl
@[simp] theorem onDemand_clock (n : Fin 3) (f : DemandRec → DemandRec) (s : State) :
    (onDemand n f s).clock = s.clock := rfl
@[simp] theorem onDemand_clockTimer (n : Fin 3) (f : DemandRec → DemandRec) (s : State) :
    (onDemand n f s).clockTimer = s.clockTimer := rfl
@[simp] theorem onDemand_resetCause (n : Fin 3) (f : DemandRec → DemandRec) (s : State) :
    (onDemand n f s).resetCause = s.resetCause := rfl
@[simp] theorem onDemand_straps (n : Fin 3) (f : DemandRec → DemandRec) (s : State) :
    (onDemand n f s).straps = s.straps := rfl
@[simp] theorem onDemand_points (n : Fin 3) (f : DemandRec → DemandRec) (s : State) :
    (onDemand n f s).points = s.points := rfl
@[simp] theorem onDemand_burners (n : Fin 3) (f : DemandRec → DemandRec) (s : State) :
    (onDemand n f s).burners = s.burners := rfl
@[simp] theorem onDemand_fuel (n : Fin 3) (f : DemandRec → DemandRec) (s : State) :
    (onDemand n f s).fuel = { s.fuel with demands := s.fuel.demands.upd n f } := rfl
@[simp] theorem onDemand_channels (n : Fin 3) (f : DemandRec → DemandRec) (s : State) :
    (onDemand n f s).channels = s.channels := rfl
@[simp] theorem onDemand_cooler (n : Fin 3) (f : DemandRec → DemandRec) (s : State) :
    (onDemand n f s).cooler = s.cooler := rfl
@[simp] theorem onDemand_kiln (n : Fin 3) (f : DemandRec → DemandRec) (s : State) :
    (onDemand n f s).kiln = s.kiln := rfl
@[simp] theorem onDemand_rep (n : Fin 3) (f : DemandRec → DemandRec) (s : State) : (onDemand n f s).rep = s.rep := rfl
@[simp] theorem onDemand_link (n : Fin 3) (f : DemandRec → DemandRec) (s : State) :
    (onDemand n f s).link = s.link := rfl
@[simp] theorem onDemand_nv (n : Fin 3) (f : DemandRec → DemandRec) (s : State) : (onDemand n f s).nv = s.nv := rfl
@[simp] theorem onDemand_store (n : Fin 3) (f : DemandRec → DemandRec) (s : State) :
    (onDemand n f s).store = s.store := rfl
@[simp] theorem onDemand_pending (n : Fin 3) (f : DemandRec → DemandRec) (s : State) :
    (onDemand n f s).pending = s.pending := rfl

/-! `endIgnition` -/

@[simp] theorem endIgnition_settings (n : Fin 3) (s : State) : (endIgnition n s).settings = s.settings := rfl
@[simp] theorem endIgnition_lock (n : Fin 3) (s : State) : (endIgnition n s).lock = s.lock := rfl
@[simp] theorem endIgnition_clock (n : Fin 3) (s : State) : (endIgnition n s).clock = s.clock := rfl
@[simp] theorem endIgnition_clockTimer (n : Fin 3) (s : State) : (endIgnition n s).clockTimer = s.clockTimer := rfl
@[simp] theorem endIgnition_resetCause (n : Fin 3) (s : State) : (endIgnition n s).resetCause = s.resetCause := rfl
@[simp] theorem endIgnition_straps (n : Fin 3) (s : State) : (endIgnition n s).straps = s.straps := rfl
@[simp] theorem endIgnition_points (n : Fin 3) (s : State) : (endIgnition n s).points = s.points := rfl
@[simp] theorem endIgnition_burners (n : Fin 3) (s : State) : (endIgnition n s).burners = s.burners := rfl
@[simp] theorem endIgnition_fuel (n : Fin 3) (s : State) :
    (endIgnition n s).fuel = { s.fuel with ignition := s.fuel.ignition.put n none } := rfl
@[simp] theorem endIgnition_channels (n : Fin 3) (s : State) : (endIgnition n s).channels = s.channels := rfl
@[simp] theorem endIgnition_cooler (n : Fin 3) (s : State) : (endIgnition n s).cooler = s.cooler := rfl
@[simp] theorem endIgnition_kiln (n : Fin 3) (s : State) : (endIgnition n s).kiln = s.kiln := rfl
@[simp] theorem endIgnition_rep (n : Fin 3) (s : State) : (endIgnition n s).rep = s.rep := rfl
@[simp] theorem endIgnition_link (n : Fin 3) (s : State) : (endIgnition n s).link = s.link := rfl
@[simp] theorem endIgnition_nv (n : Fin 3) (s : State) : (endIgnition n s).nv = s.nv := rfl
@[simp] theorem endIgnition_store (n : Fin 3) (s : State) : (endIgnition n s).store = s.store := rfl
@[simp] theorem endIgnition_pending (n : Fin 3) (s : State) : (endIgnition n s).pending = s.pending := rfl

/-! `onBurner` -/

@[simp] theorem onBurner_settings (n : Fin 3) (f : BurnerRec → BurnerRec) (s : State) :
    (onBurner n f s).settings = s.settings := rfl
@[simp] theorem onBurner_lock (n : Fin 3) (f : BurnerRec → BurnerRec) (s : State) :
    (onBurner n f s).lock = s.lock := rfl
@[simp] theorem onBurner_clock (n : Fin 3) (f : BurnerRec → BurnerRec) (s : State) :
    (onBurner n f s).clock = s.clock := rfl
@[simp] theorem onBurner_clockTimer (n : Fin 3) (f : BurnerRec → BurnerRec) (s : State) :
    (onBurner n f s).clockTimer = s.clockTimer := rfl
@[simp] theorem onBurner_resetCause (n : Fin 3) (f : BurnerRec → BurnerRec) (s : State) :
    (onBurner n f s).resetCause = s.resetCause := rfl
@[simp] theorem onBurner_straps (n : Fin 3) (f : BurnerRec → BurnerRec) (s : State) :
    (onBurner n f s).straps = s.straps := rfl
@[simp] theorem onBurner_points (n : Fin 3) (f : BurnerRec → BurnerRec) (s : State) :
    (onBurner n f s).points = s.points := rfl
@[simp] theorem onBurner_burners (n : Fin 3) (f : BurnerRec → BurnerRec) (s : State) :
    (onBurner n f s).burners = s.burners.upd n f := rfl
@[simp] theorem onBurner_fuel (n : Fin 3) (f : BurnerRec → BurnerRec) (s : State) :
    (onBurner n f s).fuel = s.fuel := rfl
@[simp] theorem onBurner_channels (n : Fin 3) (f : BurnerRec → BurnerRec) (s : State) :
    (onBurner n f s).channels = s.channels := rfl
@[simp] theorem onBurner_cooler (n : Fin 3) (f : BurnerRec → BurnerRec) (s : State) :
    (onBurner n f s).cooler = s.cooler := rfl
@[simp] theorem onBurner_kiln (n : Fin 3) (f : BurnerRec → BurnerRec) (s : State) :
    (onBurner n f s).kiln = s.kiln := rfl
@[simp] theorem onBurner_rep (n : Fin 3) (f : BurnerRec → BurnerRec) (s : State) : (onBurner n f s).rep = s.rep := rfl
@[simp] theorem onBurner_link (n : Fin 3) (f : BurnerRec → BurnerRec) (s : State) :
    (onBurner n f s).link = s.link := rfl
@[simp] theorem onBurner_nv (n : Fin 3) (f : BurnerRec → BurnerRec) (s : State) : (onBurner n f s).nv = s.nv := rfl
@[simp] theorem onBurner_store (n : Fin 3) (f : BurnerRec → BurnerRec) (s : State) :
    (onBurner n f s).store = s.store := rfl
@[simp] theorem onBurner_pending (n : Fin 3) (f : BurnerRec → BurnerRec) (s : State) :
    (onBurner n f s).pending = s.pending := rfl

/-! `onPoint` -/

@[simp] theorem onPoint_settings (p : Fin 96) (f : PointRec → PointRec) (s : State) :
    (onPoint p f s).settings = s.settings := rfl
@[simp] theorem onPoint_lock (p : Fin 96) (f : PointRec → PointRec) (s : State) : (onPoint p f s).lock = s.lock := rfl
@[simp] theorem onPoint_clock (p : Fin 96) (f : PointRec → PointRec) (s : State) :
    (onPoint p f s).clock = s.clock := rfl
@[simp] theorem onPoint_clockTimer (p : Fin 96) (f : PointRec → PointRec) (s : State) :
    (onPoint p f s).clockTimer = s.clockTimer := rfl
@[simp] theorem onPoint_resetCause (p : Fin 96) (f : PointRec → PointRec) (s : State) :
    (onPoint p f s).resetCause = s.resetCause := rfl
@[simp] theorem onPoint_straps (p : Fin 96) (f : PointRec → PointRec) (s : State) :
    (onPoint p f s).straps = s.straps := rfl
@[simp] theorem onPoint_points (p : Fin 96) (f : PointRec → PointRec) (s : State) :
    (onPoint p f s).points = { s.points with points := s.points.points.upd p f } := rfl
@[simp] theorem onPoint_burners (p : Fin 96) (f : PointRec → PointRec) (s : State) :
    (onPoint p f s).burners = s.burners := rfl
@[simp] theorem onPoint_fuel (p : Fin 96) (f : PointRec → PointRec) (s : State) : (onPoint p f s).fuel = s.fuel := rfl
@[simp] theorem onPoint_channels (p : Fin 96) (f : PointRec → PointRec) (s : State) :
    (onPoint p f s).channels = s.channels := rfl
@[simp] theorem onPoint_cooler (p : Fin 96) (f : PointRec → PointRec) (s : State) :
    (onPoint p f s).cooler = s.cooler := rfl
@[simp] theorem onPoint_kiln (p : Fin 96) (f : PointRec → PointRec) (s : State) : (onPoint p f s).kiln = s.kiln := rfl
@[simp] theorem onPoint_rep (p : Fin 96) (f : PointRec → PointRec) (s : State) : (onPoint p f s).rep = s.rep := rfl
@[simp] theorem onPoint_link (p : Fin 96) (f : PointRec → PointRec) (s : State) : (onPoint p f s).link = s.link := rfl
@[simp] theorem onPoint_nv (p : Fin 96) (f : PointRec → PointRec) (s : State) : (onPoint p f s).nv = s.nv := rfl
@[simp] theorem onPoint_store (p : Fin 96) (f : PointRec → PointRec) (s : State) :
    (onPoint p f s).store = s.store := rfl
@[simp] theorem onPoint_pending (p : Fin 96) (f : PointRec → PointRec) (s : State) :
    (onPoint p f s).pending = s.pending := rfl

/-! `onInput` -/

@[simp] theorem onInput_settings (i : Fin 16) (f : InputRec → InputRec) (s : State) :
    (onInput i f s).settings = s.settings := rfl
@[simp] theorem onInput_lock (i : Fin 16) (f : InputRec → InputRec) (s : State) : (onInput i f s).lock = s.lock := rfl
@[simp] theorem onInput_clock (i : Fin 16) (f : InputRec → InputRec) (s : State) :
    (onInput i f s).clock = s.clock := rfl
@[simp] theorem onInput_clockTimer (i : Fin 16) (f : InputRec → InputRec) (s : State) :
    (onInput i f s).clockTimer = s.clockTimer := rfl
@[simp] theorem onInput_resetCause (i : Fin 16) (f : InputRec → InputRec) (s : State) :
    (onInput i f s).resetCause = s.resetCause := rfl
@[simp] theorem onInput_straps (i : Fin 16) (f : InputRec → InputRec) (s : State) :
    (onInput i f s).straps = s.straps := rfl
@[simp] theorem onInput_points (i : Fin 16) (f : InputRec → InputRec) (s : State) :
    (onInput i f s).points = { s.points with inputs := s.points.inputs.upd i f } := rfl
@[simp] theorem onInput_burners (i : Fin 16) (f : InputRec → InputRec) (s : State) :
    (onInput i f s).burners = s.burners := rfl
@[simp] theorem onInput_fuel (i : Fin 16) (f : InputRec → InputRec) (s : State) : (onInput i f s).fuel = s.fuel := rfl
@[simp] theorem onInput_channels (i : Fin 16) (f : InputRec → InputRec) (s : State) :
    (onInput i f s).channels = s.channels := rfl
@[simp] theorem onInput_cooler (i : Fin 16) (f : InputRec → InputRec) (s : State) :
    (onInput i f s).cooler = s.cooler := rfl
@[simp] theorem onInput_kiln (i : Fin 16) (f : InputRec → InputRec) (s : State) : (onInput i f s).kiln = s.kiln := rfl
@[simp] theorem onInput_rep (i : Fin 16) (f : InputRec → InputRec) (s : State) : (onInput i f s).rep = s.rep := rfl
@[simp] theorem onInput_link (i : Fin 16) (f : InputRec → InputRec) (s : State) : (onInput i f s).link = s.link := rfl
@[simp] theorem onInput_nv (i : Fin 16) (f : InputRec → InputRec) (s : State) : (onInput i f s).nv = s.nv := rfl
@[simp] theorem onInput_store (i : Fin 16) (f : InputRec → InputRec) (s : State) :
    (onInput i f s).store = s.store := rfl
@[simp] theorem onInput_pending (i : Fin 16) (f : InputRec → InputRec) (s : State) :
    (onInput i f s).pending = s.pending := rfl

/-! `onKey` -/

@[simp] theorem onKey_settings (f : KeyRec → KeyRec) (s : State) : (onKey f s).settings = s.settings := rfl
@[simp] theorem onKey_lock (f : KeyRec → KeyRec) (s : State) : (onKey f s).lock = s.lock := rfl
@[simp] theorem onKey_clock (f : KeyRec → KeyRec) (s : State) : (onKey f s).clock = s.clock := rfl
@[simp] theorem onKey_clockTimer (f : KeyRec → KeyRec) (s : State) : (onKey f s).clockTimer = s.clockTimer := rfl
@[simp] theorem onKey_resetCause (f : KeyRec → KeyRec) (s : State) : (onKey f s).resetCause = s.resetCause := rfl
@[simp] theorem onKey_straps (f : KeyRec → KeyRec) (s : State) : (onKey f s).straps = s.straps := rfl
@[simp] theorem onKey_points (f : KeyRec → KeyRec) (s : State) :
    (onKey f s).points = { s.points with key := f s.points.key } := rfl
@[simp] theorem onKey_burners (f : KeyRec → KeyRec) (s : State) : (onKey f s).burners = s.burners := rfl
@[simp] theorem onKey_fuel (f : KeyRec → KeyRec) (s : State) : (onKey f s).fuel = s.fuel := rfl
@[simp] theorem onKey_channels (f : KeyRec → KeyRec) (s : State) : (onKey f s).channels = s.channels := rfl
@[simp] theorem onKey_cooler (f : KeyRec → KeyRec) (s : State) : (onKey f s).cooler = s.cooler := rfl
@[simp] theorem onKey_kiln (f : KeyRec → KeyRec) (s : State) : (onKey f s).kiln = s.kiln := rfl
@[simp] theorem onKey_rep (f : KeyRec → KeyRec) (s : State) : (onKey f s).rep = s.rep := rfl
@[simp] theorem onKey_link (f : KeyRec → KeyRec) (s : State) : (onKey f s).link = s.link := rfl
@[simp] theorem onKey_nv (f : KeyRec → KeyRec) (s : State) : (onKey f s).nv = s.nv := rfl
@[simp] theorem onKey_store (f : KeyRec → KeyRec) (s : State) : (onKey f s).store = s.store := rfl
@[simp] theorem onKey_pending (f : KeyRec → KeyRec) (s : State) : (onKey f s).pending = s.pending := rfl

/-! `onEstop` -/

@[simp] theorem onEstop_settings (f : EstopRec → EstopRec) (s : State) : (onEstop f s).settings = s.settings := rfl
@[simp] theorem onEstop_lock (f : EstopRec → EstopRec) (s : State) : (onEstop f s).lock = s.lock := rfl
@[simp] theorem onEstop_clock (f : EstopRec → EstopRec) (s : State) : (onEstop f s).clock = s.clock := rfl
@[simp] theorem onEstop_clockTimer (f : EstopRec → EstopRec) (s : State) :
    (onEstop f s).clockTimer = s.clockTimer := rfl
@[simp] theorem onEstop_resetCause (f : EstopRec → EstopRec) (s : State) :
    (onEstop f s).resetCause = s.resetCause := rfl
@[simp] theorem onEstop_straps (f : EstopRec → EstopRec) (s : State) : (onEstop f s).straps = s.straps := rfl
@[simp] theorem onEstop_points (f : EstopRec → EstopRec) (s : State) :
    (onEstop f s).points = { s.points with estop := f s.points.estop } := rfl
@[simp] theorem onEstop_burners (f : EstopRec → EstopRec) (s : State) : (onEstop f s).burners = s.burners := rfl
@[simp] theorem onEstop_fuel (f : EstopRec → EstopRec) (s : State) : (onEstop f s).fuel = s.fuel := rfl
@[simp] theorem onEstop_channels (f : EstopRec → EstopRec) (s : State) : (onEstop f s).channels = s.channels := rfl
@[simp] theorem onEstop_cooler (f : EstopRec → EstopRec) (s : State) : (onEstop f s).cooler = s.cooler := rfl
@[simp] theorem onEstop_kiln (f : EstopRec → EstopRec) (s : State) : (onEstop f s).kiln = s.kiln := rfl
@[simp] theorem onEstop_rep (f : EstopRec → EstopRec) (s : State) : (onEstop f s).rep = s.rep := rfl
@[simp] theorem onEstop_link (f : EstopRec → EstopRec) (s : State) : (onEstop f s).link = s.link := rfl
@[simp] theorem onEstop_nv (f : EstopRec → EstopRec) (s : State) : (onEstop f s).nv = s.nv := rfl
@[simp] theorem onEstop_store (f : EstopRec → EstopRec) (s : State) : (onEstop f s).store = s.store := rfl
@[simp] theorem onEstop_pending (f : EstopRec → EstopRec) (s : State) : (onEstop f s).pending = s.pending := rfl

/-! `onCooler` -/

@[simp] theorem onCooler_settings (f : CoolerCtl → CoolerCtl) (s : State) :
    (onCooler f s).settings = s.settings := rfl
@[simp] theorem onCooler_lock (f : CoolerCtl → CoolerCtl) (s : State) : (onCooler f s).lock = s.lock := rfl
@[simp] theorem onCooler_clock (f : CoolerCtl → CoolerCtl) (s : State) : (onCooler f s).clock = s.clock := rfl
@[simp] theorem onCooler_clockTimer (f : CoolerCtl → CoolerCtl) (s : State) :
    (onCooler f s).clockTimer = s.clockTimer := rfl
@[simp] theorem onCooler_resetCause (f : CoolerCtl → CoolerCtl) (s : State) :
    (onCooler f s).resetCause = s.resetCause := rfl
@[simp] theorem onCooler_straps (f : CoolerCtl → CoolerCtl) (s : State) : (onCooler f s).straps = s.straps := rfl
@[simp] theorem onCooler_points (f : CoolerCtl → CoolerCtl) (s : State) : (onCooler f s).points = s.points := rfl
@[simp] theorem onCooler_burners (f : CoolerCtl → CoolerCtl) (s : State) : (onCooler f s).burners = s.burners := rfl
@[simp] theorem onCooler_fuel (f : CoolerCtl → CoolerCtl) (s : State) : (onCooler f s).fuel = s.fuel := rfl
@[simp] theorem onCooler_channels (f : CoolerCtl → CoolerCtl) (s : State) :
    (onCooler f s).channels = s.channels := rfl
@[simp] theorem onCooler_cooler (f : CoolerCtl → CoolerCtl) (s : State) : (onCooler f s).cooler = f s.cooler := rfl
@[simp] theorem onCooler_kiln (f : CoolerCtl → CoolerCtl) (s : State) : (onCooler f s).kiln = s.kiln := rfl
@[simp] theorem onCooler_rep (f : CoolerCtl → CoolerCtl) (s : State) : (onCooler f s).rep = s.rep := rfl
@[simp] theorem onCooler_link (f : CoolerCtl → CoolerCtl) (s : State) : (onCooler f s).link = s.link := rfl
@[simp] theorem onCooler_nv (f : CoolerCtl → CoolerCtl) (s : State) : (onCooler f s).nv = s.nv := rfl
@[simp] theorem onCooler_store (f : CoolerCtl → CoolerCtl) (s : State) : (onCooler f s).store = s.store := rfl
@[simp] theorem onCooler_pending (f : CoolerCtl → CoolerCtl) (s : State) : (onCooler f s).pending = s.pending := rfl

/-! `onGrate` -/

@[simp] theorem onGrate_settings (n : Fin 3) (f : GrateRec → GrateRec) (s : State) :
    (onGrate n f s).settings = s.settings := rfl
@[simp] theorem onGrate_lock (n : Fin 3) (f : GrateRec → GrateRec) (s : State) : (onGrate n f s).lock = s.lock := rfl
@[simp] theorem onGrate_clock (n : Fin 3) (f : GrateRec → GrateRec) (s : State) :
    (onGrate n f s).clock = s.clock := rfl
@[simp] theorem onGrate_clockTimer (n : Fin 3) (f : GrateRec → GrateRec) (s : State) :
    (onGrate n f s).clockTimer = s.clockTimer := rfl
@[simp] theorem onGrate_resetCause (n : Fin 3) (f : GrateRec → GrateRec) (s : State) :
    (onGrate n f s).resetCause = s.resetCause := rfl
@[simp] theorem onGrate_straps (n : Fin 3) (f : GrateRec → GrateRec) (s : State) :
    (onGrate n f s).straps = s.straps := rfl
@[simp] theorem onGrate_points (n : Fin 3) (f : GrateRec → GrateRec) (s : State) :
    (onGrate n f s).points = s.points := rfl
@[simp] theorem onGrate_burners (n : Fin 3) (f : GrateRec → GrateRec) (s : State) :
    (onGrate n f s).burners = s.burners := rfl
@[simp] theorem onGrate_fuel (n : Fin 3) (f : GrateRec → GrateRec) (s : State) : (onGrate n f s).fuel = s.fuel := rfl
@[simp] theorem onGrate_channels (n : Fin 3) (f : GrateRec → GrateRec) (s : State) :
    (onGrate n f s).channels = s.channels := rfl
@[simp] theorem onGrate_cooler (n : Fin 3) (f : GrateRec → GrateRec) (s : State) :
    (onGrate n f s).cooler = { s.cooler with grates := s.cooler.grates.upd n f } := rfl
@[simp] theorem onGrate_kiln (n : Fin 3) (f : GrateRec → GrateRec) (s : State) : (onGrate n f s).kiln = s.kiln := rfl
@[simp] theorem onGrate_rep (n : Fin 3) (f : GrateRec → GrateRec) (s : State) : (onGrate n f s).rep = s.rep := rfl
@[simp] theorem onGrate_link (n : Fin 3) (f : GrateRec → GrateRec) (s : State) : (onGrate n f s).link = s.link := rfl
@[simp] theorem onGrate_nv (n : Fin 3) (f : GrateRec → GrateRec) (s : State) : (onGrate n f s).nv = s.nv := rfl
@[simp] theorem onGrate_store (n : Fin 3) (f : GrateRec → GrateRec) (s : State) :
    (onGrate n f s).store = s.store := rfl
@[simp] theorem onGrate_pending (n : Fin 3) (f : GrateRec → GrateRec) (s : State) :
    (onGrate n f s).pending = s.pending := rfl

/-! `onLink` -/

@[simp] theorem onLink_settings (f : LinkPort → LinkPort) (s : State) : (onLink f s).settings = s.settings := rfl
@[simp] theorem onLink_lock (f : LinkPort → LinkPort) (s : State) : (onLink f s).lock = s.lock := rfl
@[simp] theorem onLink_clock (f : LinkPort → LinkPort) (s : State) : (onLink f s).clock = s.clock := rfl
@[simp] theorem onLink_clockTimer (f : LinkPort → LinkPort) (s : State) :
    (onLink f s).clockTimer = s.clockTimer := rfl
@[simp] theorem onLink_resetCause (f : LinkPort → LinkPort) (s : State) :
    (onLink f s).resetCause = s.resetCause := rfl
@[simp] theorem onLink_straps (f : LinkPort → LinkPort) (s : State) : (onLink f s).straps = s.straps := rfl
@[simp] theorem onLink_points (f : LinkPort → LinkPort) (s : State) : (onLink f s).points = s.points := rfl
@[simp] theorem onLink_burners (f : LinkPort → LinkPort) (s : State) : (onLink f s).burners = s.burners := rfl
@[simp] theorem onLink_fuel (f : LinkPort → LinkPort) (s : State) : (onLink f s).fuel = s.fuel := rfl
@[simp] theorem onLink_channels (f : LinkPort → LinkPort) (s : State) : (onLink f s).channels = s.channels := rfl
@[simp] theorem onLink_cooler (f : LinkPort → LinkPort) (s : State) : (onLink f s).cooler = s.cooler := rfl
@[simp] theorem onLink_kiln (f : LinkPort → LinkPort) (s : State) : (onLink f s).kiln = s.kiln := rfl
@[simp] theorem onLink_rep (f : LinkPort → LinkPort) (s : State) : (onLink f s).rep = s.rep := rfl
@[simp] theorem onLink_link (f : LinkPort → LinkPort) (s : State) : (onLink f s).link = f s.link := rfl
@[simp] theorem onLink_nv (f : LinkPort → LinkPort) (s : State) : (onLink f s).nv = s.nv := rfl
@[simp] theorem onLink_store (f : LinkPort → LinkPort) (s : State) : (onLink f s).store = s.store := rfl
@[simp] theorem onLink_pending (f : LinkPort → LinkPort) (s : State) : (onLink f s).pending = s.pending := rfl

/-! `giveMode` -/

@[simp] theorem giveMode_settings (s : State) : (giveMode s).settings = s.settings := rfl
@[simp] theorem giveMode_lock (s : State) : (giveMode s).lock = s.lock := rfl
@[simp] theorem giveMode_clock (s : State) : (giveMode s).clock = s.clock := rfl
@[simp] theorem giveMode_clockTimer (s : State) : (giveMode s).clockTimer = s.clockTimer := rfl
@[simp] theorem giveMode_resetCause (s : State) : (giveMode s).resetCause = s.resetCause := rfl
@[simp] theorem giveMode_straps (s : State) : (giveMode s).straps = s.straps := rfl
@[simp] theorem giveMode_points (s : State) : (giveMode s).points = s.points := rfl
@[simp] theorem giveMode_burners (s : State) : (giveMode s).burners = s.burners := rfl
@[simp] theorem giveMode_fuel (s : State) : (giveMode s).fuel = s.fuel := rfl
@[simp] theorem giveMode_channels (s : State) : (giveMode s).channels = s.channels := rfl
@[simp] theorem giveMode_cooler (s : State) : (giveMode s).cooler = s.cooler := rfl
@[simp] theorem giveMode_kiln (s : State) : (giveMode s).kiln = s.kiln := rfl
@[simp] theorem giveMode_link (s : State) : (giveMode s).link = s.link := rfl
@[simp] theorem giveMode_nv (s : State) : (giveMode s).nv = s.nv := rfl
@[simp] theorem giveMode_store (s : State) : (giveMode s).store = s.store := rfl
@[simp] theorem giveMode_pending (s : State) : (giveMode s).pending = s.pending := rfl
@[simp] theorem giveMode_rep (s : State) :
    (giveMode s).rep = { s.rep with alarms := { s.rep.alarms with mode := s.kiln.mode } } := rfl

/-! `dropPending` -/

@[simp] theorem dropPending_settings (n : Fin 3) (s : State) : (dropPending n s).settings = s.settings := rfl
@[simp] theorem dropPending_lock (n : Fin 3) (s : State) : (dropPending n s).lock = s.lock := rfl
@[simp] theorem dropPending_clock (n : Fin 3) (s : State) : (dropPending n s).clock = s.clock := rfl
@[simp] theorem dropPending_clockTimer (n : Fin 3) (s : State) : (dropPending n s).clockTimer = s.clockTimer := rfl
@[simp] theorem dropPending_resetCause (n : Fin 3) (s : State) : (dropPending n s).resetCause = s.resetCause := rfl
@[simp] theorem dropPending_straps (n : Fin 3) (s : State) : (dropPending n s).straps = s.straps := rfl
@[simp] theorem dropPending_points (n : Fin 3) (s : State) : (dropPending n s).points = s.points := rfl
@[simp] theorem dropPending_burners (n : Fin 3) (s : State) : (dropPending n s).burners = s.burners := rfl
@[simp] theorem dropPending_fuel (n : Fin 3) (s : State) : (dropPending n s).fuel = s.fuel := rfl
@[simp] theorem dropPending_channels (n : Fin 3) (s : State) : (dropPending n s).channels = s.channels := rfl
@[simp] theorem dropPending_cooler (n : Fin 3) (s : State) : (dropPending n s).cooler = s.cooler := rfl
@[simp] theorem dropPending_kiln (n : Fin 3) (s : State) :
    (dropPending n s).kiln = { s.kiln with pendingShutdown := s.kiln.pendingShutdown.put n false } := rfl
@[simp] theorem dropPending_rep (n : Fin 3) (s : State) : (dropPending n s).rep = s.rep := rfl
@[simp] theorem dropPending_link (n : Fin 3) (s : State) : (dropPending n s).link = s.link := rfl
@[simp] theorem dropPending_nv (n : Fin 3) (s : State) : (dropPending n s).nv = s.nv := rfl
@[simp] theorem dropPending_store (n : Fin 3) (s : State) : (dropPending n s).store = s.store := rfl
@[simp] theorem dropPending_pending (n : Fin 3) (s : State) : (dropPending n s).pending = s.pending := rfl

/-! `setClosePending` -/

@[simp] theorem setClosePending_settings (c : CloseCause) (s : State) :
    (setClosePending c s).settings = s.settings := rfl
@[simp] theorem setClosePending_lock (c : CloseCause) (s : State) : (setClosePending c s).lock = s.lock := rfl
@[simp] theorem setClosePending_clock (c : CloseCause) (s : State) : (setClosePending c s).clock = s.clock := rfl
@[simp] theorem setClosePending_clockTimer (c : CloseCause) (s : State) :
    (setClosePending c s).clockTimer = s.clockTimer := rfl
@[simp] theorem setClosePending_resetCause (c : CloseCause) (s : State) :
    (setClosePending c s).resetCause = s.resetCause := rfl
@[simp] theorem setClosePending_straps (c : CloseCause) (s : State) : (setClosePending c s).straps = s.straps := rfl
@[simp] theorem setClosePending_points (c : CloseCause) (s : State) : (setClosePending c s).points = s.points := rfl
@[simp] theorem setClosePending_burners (c : CloseCause) (s : State) :
    (setClosePending c s).burners = s.burners := rfl
@[simp] theorem setClosePending_fuel (c : CloseCause) (s : State) : (setClosePending c s).fuel = s.fuel := rfl
@[simp] theorem setClosePending_channels (c : CloseCause) (s : State) :
    (setClosePending c s).channels = s.channels := rfl
@[simp] theorem setClosePending_cooler (c : CloseCause) (s : State) : (setClosePending c s).cooler = s.cooler := rfl
@[simp] theorem setClosePending_kiln (c : CloseCause) (s : State) : (setClosePending c s).kiln = s.kiln := rfl
@[simp] theorem setClosePending_rep (c : CloseCause) (s : State) :
    (setClosePending c s).rep = { s.rep with shift := { s.rep.shift with closePending := c } } := rfl
@[simp] theorem setClosePending_link (c : CloseCause) (s : State) : (setClosePending c s).link = s.link := rfl
@[simp] theorem setClosePending_nv (c : CloseCause) (s : State) : (setClosePending c s).nv = s.nv := rfl
@[simp] theorem setClosePending_store (c : CloseCause) (s : State) : (setClosePending c s).store = s.store := rfl
@[simp] theorem setClosePending_pending (c : CloseCause) (s : State) :
    (setClosePending c s).pending = s.pending := rfl

/-! `setHold` -/

@[simp] theorem setHold_settings (i : Fin 8) (h : Nat) (s : State) : (setHold i h s).settings = s.settings := rfl
@[simp] theorem setHold_lock (i : Fin 8) (h : Nat) (s : State) : (setHold i h s).lock = s.lock := rfl
@[simp] theorem setHold_clock (i : Fin 8) (h : Nat) (s : State) : (setHold i h s).clock = s.clock := rfl
@[simp] theorem setHold_clockTimer (i : Fin 8) (h : Nat) (s : State) :
    (setHold i h s).clockTimer = s.clockTimer := rfl
@[simp] theorem setHold_resetCause (i : Fin 8) (h : Nat) (s : State) :
    (setHold i h s).resetCause = s.resetCause := rfl
@[simp] theorem setHold_straps (i : Fin 8) (h : Nat) (s : State) : (setHold i h s).straps = s.straps := rfl
@[simp] theorem setHold_points (i : Fin 8) (h : Nat) (s : State) : (setHold i h s).points = s.points := rfl
@[simp] theorem setHold_burners (i : Fin 8) (h : Nat) (s : State) : (setHold i h s).burners = s.burners := rfl
@[simp] theorem setHold_fuel (i : Fin 8) (h : Nat) (s : State) : (setHold i h s).fuel = s.fuel := rfl
@[simp] theorem setHold_channels (i : Fin 8) (h : Nat) (s : State) : (setHold i h s).channels = s.channels := rfl
@[simp] theorem setHold_cooler (i : Fin 8) (h : Nat) (s : State) : (setHold i h s).cooler = s.cooler := rfl
@[simp] theorem setHold_kiln (i : Fin 8) (h : Nat) (s : State) : (setHold i h s).kiln = s.kiln := rfl
@[simp] theorem setHold_rep (i : Fin 8) (h : Nat) (s : State) :
    (setHold i h s).rep = { s.rep with shift := { s.rep.shift with ring := s.rep.shift.ring.upd i fun x => { x with hold := h } } } := rfl
@[simp] theorem setHold_link (i : Fin 8) (h : Nat) (s : State) : (setHold i h s).link = s.link := rfl
@[simp] theorem setHold_nv (i : Fin 8) (h : Nat) (s : State) : (setHold i h s).nv = s.nv := rfl
@[simp] theorem setHold_store (i : Fin 8) (h : Nat) (s : State) : (setHold i h s).store = s.store := rfl
@[simp] theorem setHold_pending (i : Fin 8) (h : Nat) (s : State) : (setHold i h s).pending = s.pending := rfl

/-! `rearm` -/

@[simp] theorem rearm_settings (g : Fin 8) (s : State) : (rearm g s).settings = s.settings := rfl
@[simp] theorem rearm_lock (g : Fin 8) (s : State) : (rearm g s).lock = s.lock := rfl
@[simp] theorem rearm_clock (g : Fin 8) (s : State) : (rearm g s).clock = s.clock := rfl
@[simp] theorem rearm_clockTimer (g : Fin 8) (s : State) : (rearm g s).clockTimer = s.clockTimer := rfl
@[simp] theorem rearm_resetCause (g : Fin 8) (s : State) : (rearm g s).resetCause = s.resetCause := rfl
@[simp] theorem rearm_straps (g : Fin 8) (s : State) : (rearm g s).straps = s.straps := rfl
@[simp] theorem rearm_points (g : Fin 8) (s : State) : (rearm g s).points = s.points := rfl
@[simp] theorem rearm_burners (g : Fin 8) (s : State) : (rearm g s).burners = s.burners := rfl
@[simp] theorem rearm_fuel (g : Fin 8) (s : State) : (rearm g s).fuel = s.fuel := rfl
@[simp] theorem rearm_channels (g : Fin 8) (s : State) : (rearm g s).channels = s.channels := rfl
@[simp] theorem rearm_cooler (g : Fin 8) (s : State) : (rearm g s).cooler = s.cooler := rfl
@[simp] theorem rearm_kiln (g : Fin 8) (s : State) : (rearm g s).kiln = s.kiln := rfl
@[simp] theorem rearm_rep (g : Fin 8) (s : State) :
    (rearm g s).rep = { s.rep with alarms := { s.rep.alarms with groups := s.rep.alarms.groups.put g .begin } } := rfl
@[simp] theorem rearm_link (g : Fin 8) (s : State) : (rearm g s).link = s.link := rfl
@[simp] theorem rearm_nv (g : Fin 8) (s : State) : (rearm g s).nv = s.nv := rfl
@[simp] theorem rearm_store (g : Fin 8) (s : State) : (rearm g s).store = s.store := rfl
@[simp] theorem rearm_pending (g : Fin 8) (s : State) : (rearm g s).pending = s.pending := rfl

/-! `raise` -/

@[simp] theorem raise_settings (a : Fin 512) (s : State) : (raise a s).settings = s.settings := rfl
@[simp] theorem raise_lock (a : Fin 512) (s : State) : (raise a s).lock = s.lock := rfl
@[simp] theorem raise_clock (a : Fin 512) (s : State) : (raise a s).clock = s.clock := rfl
@[simp] theorem raise_clockTimer (a : Fin 512) (s : State) : (raise a s).clockTimer = s.clockTimer := rfl
@[simp] theorem raise_resetCause (a : Fin 512) (s : State) : (raise a s).resetCause = s.resetCause := rfl
@[simp] theorem raise_straps (a : Fin 512) (s : State) : (raise a s).straps = s.straps := rfl
@[simp] theorem raise_points (a : Fin 512) (s : State) : (raise a s).points = s.points := rfl
@[simp] theorem raise_burners (a : Fin 512) (s : State) : (raise a s).burners = s.burners := rfl
@[simp] theorem raise_fuel (a : Fin 512) (s : State) : (raise a s).fuel = s.fuel := rfl
@[simp] theorem raise_channels (a : Fin 512) (s : State) : (raise a s).channels = s.channels := rfl
@[simp] theorem raise_cooler (a : Fin 512) (s : State) : (raise a s).cooler = s.cooler := rfl
@[simp] theorem raise_kiln (a : Fin 512) (s : State) : (raise a s).kiln = s.kiln := rfl
theorem raise_rep (a : Fin 512) (s : State) : (raise a s).rep = raiseAlarm (env s) a s.rep := rfl
@[simp] theorem raise_link (a : Fin 512) (s : State) : (raise a s).link = s.link := rfl
@[simp] theorem raise_nv (a : Fin 512) (s : State) : (raise a s).nv = s.nv := rfl
@[simp] theorem raise_store (a : Fin 512) (s : State) : (raise a s).store = s.store := rfl
@[simp] theorem raise_pending (a : Fin 512) (s : State) : (raise a s).pending = s.pending := rfl

/-! `clear` -/

@[simp] theorem clear_settings (a : Fin 512) (s : State) : (clear a s).settings = s.settings := rfl
@[simp] theorem clear_lock (a : Fin 512) (s : State) : (clear a s).lock = s.lock := rfl
@[simp] theorem clear_clock (a : Fin 512) (s : State) : (clear a s).clock = s.clock := rfl
@[simp] theorem clear_clockTimer (a : Fin 512) (s : State) : (clear a s).clockTimer = s.clockTimer := rfl
@[simp] theorem clear_resetCause (a : Fin 512) (s : State) : (clear a s).resetCause = s.resetCause := rfl
@[simp] theorem clear_straps (a : Fin 512) (s : State) : (clear a s).straps = s.straps := rfl
@[simp] theorem clear_points (a : Fin 512) (s : State) : (clear a s).points = s.points := rfl
@[simp] theorem clear_burners (a : Fin 512) (s : State) : (clear a s).burners = s.burners := rfl
@[simp] theorem clear_fuel (a : Fin 512) (s : State) : (clear a s).fuel = s.fuel := rfl
@[simp] theorem clear_channels (a : Fin 512) (s : State) : (clear a s).channels = s.channels := rfl
@[simp] theorem clear_cooler (a : Fin 512) (s : State) : (clear a s).cooler = s.cooler := rfl
@[simp] theorem clear_kiln (a : Fin 512) (s : State) : (clear a s).kiln = s.kiln := rfl
theorem clear_rep (a : Fin 512) (s : State) : (clear a s).rep = clearAlarm (env s) a s.rep := rfl
@[simp] theorem clear_link (a : Fin 512) (s : State) : (clear a s).link = s.link := rfl
@[simp] theorem clear_nv (a : Fin 512) (s : State) : (clear a s).nv = s.nv := rfl
@[simp] theorem clear_store (a : Fin 512) (s : State) : (clear a s).store = s.store := rfl
@[simp] theorem clear_pending (a : Fin 512) (s : State) : (clear a s).pending = s.pending := rfl

/-! `post` -/

@[simp] theorem post_settings (b : NoticeBody) (cls : NoticeClass) (s : State) :
    (post b cls s).settings = s.settings := rfl
@[simp] theorem post_lock (b : NoticeBody) (cls : NoticeClass) (s : State) : (post b cls s).lock = s.lock := rfl
@[simp] theorem post_clock (b : NoticeBody) (cls : NoticeClass) (s : State) : (post b cls s).clock = s.clock := rfl
@[simp] theorem post_clockTimer (b : NoticeBody) (cls : NoticeClass) (s : State) :
    (post b cls s).clockTimer = s.clockTimer := rfl
@[simp] theorem post_resetCause (b : NoticeBody) (cls : NoticeClass) (s : State) :
    (post b cls s).resetCause = s.resetCause := rfl
@[simp] theorem post_straps (b : NoticeBody) (cls : NoticeClass) (s : State) : (post b cls s).straps = s.straps := rfl
@[simp] theorem post_points (b : NoticeBody) (cls : NoticeClass) (s : State) : (post b cls s).points = s.points := rfl
@[simp] theorem post_burners (b : NoticeBody) (cls : NoticeClass) (s : State) :
    (post b cls s).burners = s.burners := rfl
@[simp] theorem post_fuel (b : NoticeBody) (cls : NoticeClass) (s : State) : (post b cls s).fuel = s.fuel := rfl
@[simp] theorem post_channels (b : NoticeBody) (cls : NoticeClass) (s : State) :
    (post b cls s).channels = s.channels := rfl
@[simp] theorem post_cooler (b : NoticeBody) (cls : NoticeClass) (s : State) : (post b cls s).cooler = s.cooler := rfl
@[simp] theorem post_kiln (b : NoticeBody) (cls : NoticeClass) (s : State) : (post b cls s).kiln = s.kiln := rfl
theorem post_rep (b : NoticeBody) (cls : NoticeClass) (s : State) :
    (post b cls s).rep = postNotice (env s) b cls s.rep := rfl
@[simp] theorem post_link (b : NoticeBody) (cls : NoticeClass) (s : State) : (post b cls s).link = s.link := rfl
@[simp] theorem post_nv (b : NoticeBody) (cls : NoticeClass) (s : State) : (post b cls s).nv = s.nv := rfl
@[simp] theorem post_store (b : NoticeBody) (cls : NoticeClass) (s : State) : (post b cls s).store = s.store := rfl
@[simp] theorem post_pending (b : NoticeBody) (cls : NoticeClass) (s : State) :
    (post b cls s).pending = s.pending := rfl

/-! `feed` -/

@[simp] theorem feed_settings (f : ShiftRecord → ShiftRecord) (s : State) : (feed f s).settings = s.settings := rfl
@[simp] theorem feed_lock (f : ShiftRecord → ShiftRecord) (s : State) : (feed f s).lock = s.lock := rfl
@[simp] theorem feed_clock (f : ShiftRecord → ShiftRecord) (s : State) : (feed f s).clock = s.clock := rfl
@[simp] theorem feed_clockTimer (f : ShiftRecord → ShiftRecord) (s : State) :
    (feed f s).clockTimer = s.clockTimer := rfl
@[simp] theorem feed_resetCause (f : ShiftRecord → ShiftRecord) (s : State) :
    (feed f s).resetCause = s.resetCause := rfl
@[simp] theorem feed_straps (f : ShiftRecord → ShiftRecord) (s : State) : (feed f s).straps = s.straps := rfl
@[simp] theorem feed_points (f : ShiftRecord → ShiftRecord) (s : State) : (feed f s).points = s.points := rfl
@[simp] theorem feed_burners (f : ShiftRecord → ShiftRecord) (s : State) : (feed f s).burners = s.burners := rfl
@[simp] theorem feed_fuel (f : ShiftRecord → ShiftRecord) (s : State) : (feed f s).fuel = s.fuel := rfl
@[simp] theorem feed_channels (f : ShiftRecord → ShiftRecord) (s : State) : (feed f s).channels = s.channels := rfl
@[simp] theorem feed_cooler (f : ShiftRecord → ShiftRecord) (s : State) : (feed f s).cooler = s.cooler := rfl
@[simp] theorem feed_kiln (f : ShiftRecord → ShiftRecord) (s : State) : (feed f s).kiln = s.kiln := rfl
@[simp] theorem feed_rep (f : ShiftRecord → ShiftRecord) (s : State) : (feed f s).rep = feedShift f s.rep := rfl
@[simp] theorem feed_link (f : ShiftRecord → ShiftRecord) (s : State) : (feed f s).link = s.link := rfl
@[simp] theorem feed_nv (f : ShiftRecord → ShiftRecord) (s : State) : (feed f s).nv = s.nv := rfl
@[simp] theorem feed_store (f : ShiftRecord → ShiftRecord) (s : State) : (feed f s).store = s.store := rfl
@[simp] theorem feed_pending (f : ShiftRecord → ShiftRecord) (s : State) : (feed f s).pending = s.pending := rfl

end Sys2Proof.Machine
end

