-- ==== Sys2Proof/Laws/Answers.lean ====
section
/-! SUPPORT. What a request answers, the numbers that operand bytes name, and the byte forms of numbers. -/

namespace Sys2Proof.Machine

/-! Answers -/

/-- A request served leaves the state of its owner with its reply in the buffer (R167). -/
theorem answer_eq (code tag : Byte) (serve : State → Answer) (s : State) (h : s.link.restartPending = false) :
    answer code tag serve s = .next (replied code tag (serve s).2.1 (serve s).2.2 (serve s).1) := by
  unfold answer
  rw [h]
  rfl

/-- A request after an answered RESTART changes nothing (R173). -/
theorem answer_lost (code tag : Byte) (serve : State → Answer) (s : State) (h : s.link.restartPending = true) :
    answer code tag serve s = .next s := by
  unfold answer
  rw [h]
  rfl

theorem answer_refuse (code tag : Byte) (st : Status) (s : State) (h : s.link.restartPending = false) :
    answer code tag (refuse st) s = .next (replied code tag st [] s) := answer_eq code tag _ s h

theorem replied_frame (code tag : Byte) (st : Status) (data : List Byte) (s : State) :
    replied code tag st data s = { s with link := { s.link with reply := (replied code tag st data s).link.reply } } :=
  rfl

@[simp] theorem replied_reply (code tag : Byte) (st : Status) (data : List Byte) (s : State) :
    (replied code tag st data s).link.reply = some { code := code, tag := tag, status := st, data := data } := rfl

/-! Operand numbers -/

theorem number?_some {n : Nat} {b : Byte} (i : Fin n) (h : b.toNat = i.val) : number? n b = some i := by
  unfold number?
  rw [dif_pos (h ▸ i.isLt)]
  simp [h]

theorem number?_none {n : Nat} {b : Byte} (h : n ≤ b.toNat) : number? n b = none := by
  unfold number?
  rw [dif_neg (by omega)]

theorem number?_eq_some {n : Nat} {b : Byte} {i : Fin n} (h : number? n b = some i) : b.toNat = i.val := by
  unfold number? at h
  split at h
  · cases h; rfl
  · cases h

/-! Bytes of numbers -/

@[simp] theorem beBytes_zero (n : Nat) : beBytes 0 n = [] := rfl

theorem beBytes_one (n : Nat) : beBytes 1 n = [BitVec.ofNat 8 n] := rfl

theorem beBytes_two (n : Nat) : beBytes 2 n = [BitVec.ofNat 8 (n / 256), BitVec.ofNat 8 n] := rfl

theorem beBytes_four (n : Nat) :
    beBytes 4 n = [BitVec.ofNat 8 (n / 256 / 256 / 256), BitVec.ofNat 8 (n / 256 / 256), BitVec.ofNat 8 (n / 256),
      BitVec.ofNat 8 n] := rfl

@[simp] theorem length_beBytes (k n : Nat) : (beBytes k n).length = k := by
  induction k generalizing n with
  | zero => rfl
  | succ k ih => simp [beBytes, ih]

theorem fromBytes_append (bs : List Byte) (b : Byte) : fromBytes (bs ++ [b]) = 256 * fromBytes bs + b.toNat := by
  simp [fromBytes]

/-- A number is read back from its bytes, modulo what they hold (R167). -/
theorem fromBytes_beBytes (k n : Nat) : fromBytes (beBytes k n) = n % 256 ^ k := by
  induction k generalizing n with
  | zero => simp [fromBytes, beBytes, Nat.mod_one]
  | succ k ih =>
    have e : 256 ^ (k + 1) = 256 * 256 ^ k := Nat.pow_succ'
    rw [beBytes, fromBytes_append, ih, BitVec.toNat_ofNat, e, Nat.mod_mul]
    omega

/-- A 16-bit operand is read back from its two bytes. -/
theorem half_roundtrip (h : Half) : BitVec.ofNat 16 (fromBytes (beBytes 2 h.toNat)) = h := by
  rw [fromBytes_beBytes, Nat.mod_eq_of_lt (show h.toNat < 256 ^ 2 from h.isLt), BitVec.ofNat_toNat, BitVec.setWidth_eq]

/-- A 32-bit operand is read back from its four bytes. -/
theorem word_roundtrip (w : Word) : BitVec.ofNat 32 (fromBytes (beBytes 4 w.toNat)) = w := by
  rw [fromBytes_beBytes, Nat.mod_eq_of_lt (show w.toNat < 256 ^ 4 from w.isLt), BitVec.ofNat_toNat, BitVec.setWidth_eq]

end Sys2Proof.Machine
end

