-- ==== Sys2Proof/Laws/Tables.lean ====
section
/-! SUPPORT. What a table reads after an update, that tables are equal when their items are, and which items `select`
finds. -/

namespace Sys2Proof.Machine.Tab
variable {n : Nat} {α β : Type}

@[simp] theorem nth_put_self (t : Tab n α) (i : Fin n) (x : α) : (t.put i x).nth i = x := by
  simp [put, nth]

theorem nth_put_ne (t : Tab n α) {i j : Fin n} (h : j ≠ i) (x : α) : (t.put i x).nth j = t.nth j := by
  have : i.val ≠ j.val := fun e => h (Fin.ext e.symm)
  simp [put, nth, this]

theorem nth_put (t : Tab n α) (i j : Fin n) (x : α) : (t.put i x).nth j = if j = i then x else t.nth j := by
  by_cases h : j = i
  · subst h; simp
  · simp [h, nth_put_ne t h]

@[simp] theorem nth_upd_self (t : Tab n α) (i : Fin n) (f : α → α) : (t.upd i f).nth i = f (t.nth i) := by
  simp [upd]

theorem nth_upd_ne (t : Tab n α) {i j : Fin n} (h : j ≠ i) (f : α → α) : (t.upd i f).nth j = t.nth j := by
  simp [upd, nth_put_ne t h]

theorem nth_upd (t : Tab n α) (i j : Fin n) (f : α → α) :
    (t.upd i f).nth j = if j = i then f (t.nth j) else t.nth j := by
  by_cases h : j = i
  · subst h; simp
  · simp [h, nth_upd_ne t h]

@[simp] theorem nth_make (f : Fin n → α) (i : Fin n) : (make f).nth i = f i := by
  simp [make, nth]

@[simp] theorem nth_fill (x : α) (i : Fin n) : (fill x : Tab n α).nth i = x := by
  simp [fill, nth]

@[simp] theorem nth_mapAll (f : α → β) (t : Tab n α) (i : Fin n) : (mapAll f t).nth i = f (t.nth i) := by
  simp [mapAll, nth]

/-- Tables with equal items are equal. -/
theorem ext_nth {t u : Tab n α} (h : ∀ i, t.nth i = u.nth i) : t = u := by
  apply Vector.ext
  intro i hi
  exact h ⟨i, hi⟩

@[simp] theorem put_nth (t : Tab n α) (i : Fin n) : t.put i (t.nth i) = t :=
  ext_nth fun j => by rw [nth_put]; split <;> simp_all

theorem upd_eq_self (t : Tab n α) (i : Fin n) (f : α → α) (h : f (t.nth i) = t.nth i) : t.upd i f = t := by
  simp [upd, h]

@[simp] theorem put_put (t : Tab n α) (i : Fin n) (x y : α) : (t.put i x).put i y = t.put i y :=
  ext_nth fun j => by simp only [nth_put]; split <;> rfl

/-- A set is empty when it counts no member. -/
theorem count_eq_zero (t : Tab n Bool) : t.count id = 0 ↔ ∀ i, t.nth i = false := by
  unfold count nth
  rw [List.countP_eq_zero]
  constructor
  · intro h i
    simpa using h t[i.val] (by simp)
  · intro h x hx
    obtain ⟨i, hi, rfl⟩ := List.getElem_of_mem hx
    simpa using h ⟨i, by simpa using hi⟩

/-- The item list of a table, by number. -/
theorem toList_eq (t : Tab n α) : t.toList = (List.finRange n).map t.nth := by
  apply List.ext_getElem
  · simp
  · intro i h₁ h₂
    simp [nth]

/-- `select` finds the numbers of the items that satisfy `p`, lowest first. -/
theorem select_eq (p : α → Bool) (t : Tab n α) : t.select p = (List.finRange n).filter fun i => p (t.nth i) := by
  unfold select
  rw [toList_eq]
  induction List.finRange n with
  | nil => rfl
  | cons i is ih =>
    simp only [List.map_cons, List.zip_cons_cons, List.filterMap_cons]
    by_cases h : p (t.nth i) <;> simp_all

@[simp] theorem mem_select {p : α → Bool} {t : Tab n α} {i : Fin n} : i ∈ t.select p ↔ p (t.nth i) = true := by
  simp [select_eq]

/-- `count` counts the numbers that `select` finds. -/
theorem count_eq (p : α → Bool) (t : Tab n α) : t.count p = (t.select p).length := by
  simp [count, select_eq, toList_eq, List.countP_eq_length_filter, List.filter_map, Function.comp_def]

/-- A count sees only what `p` sees of the items. -/
theorem count_congr {p : α → Bool} {t u : Tab n α} (h : ∀ i, p (t.nth i) = p (u.nth i)) : t.count p = u.count p := by
  simp [count_eq, select_eq, h]

theorem count_le (p : α → Bool) (t : Tab n α) : t.count p ≤ n := by
  have := List.countP_le_length (p := p) (l := t.toList)
  simpa [count] using this

end Sys2Proof.Machine.Tab
end

