-- ==== Sys2Proof/Laws/Reporting.lean ====
section
/-! SUPPORT. What the operations of the reporting side can do: which alarms a raise, a clear, a notice or a release can
change, and what they leave alone. -/

namespace Sys2Proof.Machine

/-- From `r` to `r'` only alarms that `p` names changed state; the shelves, the ring, the shift timer, a pending close, every
sticky flag but NOTICE-LOST and the Alarm Table's timers are as they were. -/
structure Reported (p : Fin 512 → Prop) (r r' : Reporting) : Prop where
  shift : r'.shift = { r.shift with openRec := r'.shift.openRec, carries := r'.shift.carries }
  sticky : r'.sticky = { r.sticky with noticeLost := r'.sticky.noticeLost }
  minute : r'.alarms.minuteTimer = r.alarms.minuteTimer
  second : r'.alarms.secondTimer = r.alarms.secondTimer
  state : ∀ a, ¬ p a → (r'.alarms.recs.nth a).state = (r.alarms.recs.nth a).state
  shelf : ∀ a, (r'.alarms.recs.nth a).shelved = (r.alarms.recs.nth a).shelved ∧
    (r'.alarms.recs.nth a).shelveMinutes = (r.alarms.recs.nth a).shelveMinutes

namespace Reported
variable {p q : Fin 512 → Prop} {r r' r'' : Reporting}

theorem refl (p : Fin 512 → Prop) (r : Reporting) : Reported p r r := by constructor <;> simp

theorem trans (h : Reported p r r') (k : Reported p r' r'') : Reported p r r'' where
  shift := by have := h.shift; have := k.shift; grind
  sticky := by have := h.sticky; have := k.sticky; grind
  minute := k.minute.trans h.minute
  second := k.second.trans h.second
  state a ha := (k.state a ha).trans (h.state a ha)
  shelf a := ⟨(k.shelf a).1.trans (h.shelf a).1, (k.shelf a).2.trans (h.shelf a).2⟩

theorem mono (h : Reported p r r') (pq : ∀ a, p a → q a) : Reported q r r' :=
  { h with state := fun a ha => h.state a fun x => ha (pq a x) }

/-- The mode given to the Alarm Table is no part of it. -/
theorem of_mode (h : Reported p r r') (md : KilnMode) :
    Reported p r { r' with alarms := { r'.alarms with mode := md } } :=
  ⟨h.shift, h.sticky, h.minute, h.second, h.state, h.shelf⟩

end Reported

/-- The same, with the mode given to the Alarm Table as it was: so for every operation but a mode change. -/
structure Told (p : Fin 512 → Prop) (r r' : Reporting) : Prop extends Reported p r r' where
  mode : r'.alarms.mode = r.alarms.mode

namespace Told
variable {p q : Fin 512 → Prop} {r r' r'' : Reporting}

theorem refl (p : Fin 512 → Prop) (r : Reporting) : Told p r r := ⟨.refl p r, rfl⟩

theorem trans (h : Told p r r') (k : Told p r' r'') : Told p r r'' :=
  ⟨h.toReported.trans k.toReported, k.mode.trans h.mode⟩

theorem mono (h : Told p r r') (pq : ∀ a, p a → q a) : Told q r r' := ⟨h.toReported.mono pq, h.mode⟩

/-- The seven fields at once. -/
theorem of (p : Fin 512 → Prop) (shift : r'.shift = { r.shift with openRec := r'.shift.openRec, carries := r'.shift.carries })
    (sticky : r'.sticky = { r.sticky with noticeLost := r'.sticky.noticeLost })
    (minute : r'.alarms.minuteTimer = r.alarms.minuteTimer) (second : r'.alarms.secondTimer = r.alarms.secondTimer)
    (mode : r'.alarms.mode = r.alarms.mode)
    (state : ∀ a, ¬ p a → (r'.alarms.recs.nth a).state = (r.alarms.recs.nth a).state)
    (shelf : ∀ a, (r'.alarms.recs.nth a).shelved = (r.alarms.recs.nth a).shelved ∧
      (r'.alarms.recs.nth a).shelveMinutes = (r.alarms.recs.nth a).shelveMinutes) : Told p r r' :=
  ⟨⟨shift, sticky, minute, second, state, shelf⟩, mode⟩

end Told

/-! One alarm -/

theorem setAlarm_nth (clock : Nat) (a b : Fin 512) (st : AlarmState) (t : AlarmTable) :
    (setAlarm clock a st t).recs.nth b =
      if b = a then { t.recs.nth b with state := st, time := clock } else t.recs.nth b := by
  simp [setAlarm, recount, Tab.nth_upd]

theorem setHeld_nth (a b : Fin 512) (v : Bool) (t : AlarmTable) :
    (setHeld a v t).recs.nth b = if b = a then { t.recs.nth b with held := v } else t.recs.nth b := by
  simp [setHeld, Tab.nth_upd]

theorem raiseRecord_nth (e : RepEnv) (a b : Fin 512) (t : AlarmTable) :
    (raiseRecord e a t).recs.nth b =
      if b = a then
        { t.recs.nth b with state := .unackActive, time := e.clock, raises := satInc 255 (t.recs.nth b).raises }
      else t.recs.nth b := by
  simp only [raiseRecord, Tab.nth_upd, setAlarm_nth]
  split <;> rfl

/-! Steps that change no alarm's state -/

theorem told_feedShift (p) (f : ShiftRecord → ShiftRecord) (r : Reporting) : Told p r (feedShift f r) := by
  apply Told.of <;> simp [feedShift]

theorem told_notices (p) (q : NoticeQueues) (r : Reporting) : Told p r { r with notices := q } := by
  apply Told.of <;> simp

theorem told_countLoss (p) (r : Reporting) : Told p r (countLoss r) := by
  apply Told.of <;> simp [countLoss, feedShift]

theorem told_fileNotice (p) (clock : Nat) (b : NoticeBody) (cls : NoticeClass) (r : Reporting) :
    Told p r (fileNotice clock b cls r).1 := by
  unfold fileNotice
  simp only
  split
  · exact (told_notices p _ r).trans (told_countLoss p _)
  · exact told_notices p _ r

theorem told_setHeld (p) (a : Fin 512) (v : Bool) (r : Reporting) :
    Told p r { r with alarms := setHeld a v r.alarms } := by
  apply Told.of <;> simp [setHeld_nth]
  · simp [setHeld]
  · simp [setHeld]
  · simp [setHeld]
  · intro b _; split <;> rfl
  · intro b; split <;> simp

theorem told_handOver (p) (e : RepEnv) (a : Fin 512) (r : Reporting) : Told p r (handOver e a r).1 := by
  unfold handOver
  simp only
  split
  · exact told_notices p _ r
  · exact told_fileNotice p _ _ _ r

theorem told_tell (p) (e : RepEnv) (a : Fin 512) (r : Reporting) : Told p r (tell e a r).1 := by
  unfold tell
  split
  · exact told_setHeld p a true r
  · exact told_handOver p e a r

theorem told_floodOn (p) (r : Reporting) : Told p r (floodOn r) := by apply Told.of <;> simp [floodOn]

/-! Raise, clear, notice, release -/

theorem told_setAlarm (e : RepEnv) (a : Fin 512) (st : AlarmState) (r : Reporting) :
    Told (· = a) r { r with alarms := setAlarm e.clock a st r.alarms } := by
  apply Told.of <;> simp [setAlarm_nth]
  · simp [setAlarm, recount]
  · simp [setAlarm, recount]
  · simp [setAlarm, recount]
  · intro b hb; simp [hb]
  · intro b; split <;> simp

theorem told_takeRaise (e : RepEnv) (a : Fin 512) (r : Reporting) : Told (· = a) r (takeRaise e a r) := by
  apply Told.of <;> simp [takeRaise, feedShift, raiseRecord_nth]
  · simp [raiseRecord, setAlarm, recount]
  · simp [raiseRecord, setAlarm, recount]
  · simp [raiseRecord, setAlarm, recount]
  · intro b hb; simp [hb]
  · intro b; split <;> simp

/-- What every single raise and the start of the flood keep, a chain of raises keeps. -/
theorem raiseChain_induct {Q : Reporting → Prop} (S : Fin 512 → Prop) (e : RepEnv) (h97 : S 97) (h100 : S 100)
    (hraise : ∀ b r, S b → (r.alarms.recs.nth b).state.active = false → Q r → Q (tell e b (takeRaise e b r)).1)
    (hflood : ∀ r, Q r → Q (floodOn r)) :
    ∀ fuel a r, S a → Q r → Q (raiseChain fuel e a r) := by
  intro fuel
  induction fuel with
  | zero => intro a r _ h; exact h
  | succ fuel ih =>
    intro a r ha h
    unfold raiseChain
    split
    · exact h
    · rename_i hn
      have last : ∀ x : Reporting, Q x →
          Q (if !x.alarms.flood && decide (e.threshold < floodSum x.alarms) then raiseChain fuel e 100 (floodOn x)
             else x) := by
        intro x hx
        split
        · exact ih 100 _ h100 (hflood x hx)
        · exact hx
      apply last
      have h₁ := hraise a r ha (by simpa using hn) h
      split
      · exact ih 97 _ h97 h₁
      · exact h₁

theorem told_raiseChain (fuel : Nat) (e : RepEnv) (a : Fin 512) (r : Reporting) :
    Told (fun x => x = a ∨ byLoss x) r (raiseChain fuel e a r) :=
  raiseChain_induct (Q := fun x => Told (fun x => x = a ∨ byLoss x) r x) (fun x => x = a ∨ byLoss x) e
    (Or.inr (Or.inl rfl)) (Or.inr (Or.inr rfl))
    (fun b x hb _ hx => hx.trans (((told_takeRaise e b x).mono fun y hy => by
      subst hy; exact hb).trans (told_tell _ e b _)))
    (fun _ hx => hx.trans (told_floodOn _ _)) fuel a r (Or.inl rfl) (Told.refl _ _)

/-- A raise of alarm `a` changes the state of `a`, and of 97 and 100 by a lost notice and the flood. -/
theorem told_raiseAlarm (e : RepEnv) (a : Fin 512) (r : Reporting) :
    Told (fun x => x = a ∨ byLoss x) r (raiseAlarm e a r) := told_raiseChain 4 e a r

theorem told_afterLoss (p : Fin 512 → Prop) (e : RepEnv) (x : Reporting × Bool) :
    Told (fun b => p b ∨ byLoss b) x.1 (afterLoss e x) := by
  unfold afterLoss
  split
  · exact (told_raiseAlarm e 97 x.1).mono fun b hb => by
      rcases hb with rfl | hb
      · exact Or.inr (Or.inl rfl)
      · exact Or.inr hb
  · exact Told.refl _ _

/-- A clear of alarm `a` changes the state of `a`, and of 97 and 100 by a lost notice and the flood. -/
theorem told_clearAlarm (e : RepEnv) (a : Fin 512) (r : Reporting) :
    Told (fun x => x = a ∨ byLoss x) r (clearAlarm e a r) := by
  unfold clearAlarm
  split
  · exact ((told_setAlarm e a _ r).mono fun _ h => Or.inl h).trans
      ((told_tell _ e a _).trans (told_afterLoss (· = a) e _))
  · exact ((told_setAlarm e a _ r).mono fun _ h => Or.inl h).trans
      ((told_tell _ e a _).trans (told_afterLoss (· = a) e _))
  · exact Told.refl _ _
  · exact Told.refl _ _

/-- A notice of another kind changes no alarm but 97 and 100. -/
theorem told_postNotice (e : RepEnv) (b : NoticeBody) (cls : NoticeClass) (r : Reporting) :
    Told byLoss r (postNotice e b cls r) :=
  ((told_fileNotice byLoss _ _ _ r)).trans ((told_afterLoss (fun _ => False) e _).mono fun _ h => by simpa using h)

theorem told_releaseAlarm (e : RepEnv) (a : Fin 512) (r : Reporting) : Told byLoss r (releaseAlarm e a r) := by
  unfold releaseAlarm
  simp only
  split
  · split
    · exact told_setHeld _ a false r
    · exact (told_setHeld _ a false r).trans ((told_handOver _ e a _).trans
        ((told_afterLoss (fun _ => False) e _).mono fun _ h => by simpa using h))
  · exact Told.refl _ _

theorem told_releaseEach (e : RepEnv) (as : List (Fin 512)) (r : Reporting) : Told byLoss r (releaseEach e as r) := by
  unfold releaseEach
  induction as generalizing r with
  | nil => exact Told.refl _ _
  | cons a as ih => exact (told_releaseAlarm e a r).trans (ih _)

theorem told_releaseHeld (e : RepEnv) (r : Reporting) : Told byLoss r (releaseHeld e r) := told_releaseEach e _ r

/-! What an alarm's state is afterwards -/

/-- A chain of raises makes no alarm inactive. -/
theorem raiseChain_keeps (fuel : Nat) (e : RepEnv) (a b : Fin 512) (r : Reporting)
    (h : (r.alarms.recs.nth a).state.active = true) :
    ((raiseChain fuel e b r).alarms.recs.nth a).state.active = true :=
  raiseChain_induct (Q := fun x => (x.alarms.recs.nth a).state.active = true) (fun _ => True) e trivial trivial
    (fun c x _ _ hx => by
      rw [(told_tell (fun _ => False) e c _).state a (by simp)]
      simp only [takeRaise, feedShift, raiseRecord_nth]
      split
      · rfl
      · exact hx)
    (fun _ hx => hx) fuel b r trivial h

/-- A raised alarm is active. -/
theorem raiseAlarm_active (e : RepEnv) (a : Fin 512) (r : Reporting) :
    ((raiseAlarm e a r).alarms.recs.nth a).state.active = true := by
  have h₁ : ((tell e a (takeRaise e a r)).1.alarms.recs.nth a).state.active = true := by
    rw [(told_tell (fun _ => False) e a _).state a (by simp)]
    simp [takeRaise, feedShift, raiseRecord_nth, AlarmState.active]
  have last : ∀ x : Reporting, (x.alarms.recs.nth a).state.active = true →
      ((if !x.alarms.flood && decide (e.threshold < floodSum x.alarms) then raiseChain 3 e 100 (floodOn x)
        else x).alarms.recs.nth a).state.active = true := by
    intro x hx
    split
    · exact raiseChain_keeps 3 e a 100 _ hx
    · exact hx
  unfold raiseAlarm raiseChain
  split
  · assumption
  · apply last
    split
    · exact raiseChain_keeps 3 e a 97 _ h₁
    · exact h₁

/-- A raise makes no other alarm inactive. -/
theorem raiseAlarm_keeps (e : RepEnv) (a b : Fin 512) (r : Reporting) (h : (r.alarms.recs.nth a).state.active = true) :
    ((raiseAlarm e b r).alarms.recs.nth a).state.active = true :=
  raiseChain_keeps 4 e a b r h

/-- A raise of an active alarm changes nothing. -/
theorem raiseAlarm_of_active (e : RepEnv) (a : Fin 512) (r : Reporting)
    (h : (r.alarms.recs.nth a).state.active = true) : raiseAlarm e a r = r := by
  simp [raiseAlarm, raiseChain, h]

/-- A cleared alarm is not active, but for 97 and 100, which a lost notice can raise anew. -/
theorem clearAlarm_inactive (e : RepEnv) (a : Fin 512) (r : Reporting) (ha : ¬ byLoss a) :
    ((clearAlarm e a r).alarms.recs.nth a).state.active = false := by
  have after : ∀ x : Reporting × Bool, (x.1.alarms.recs.nth a).state.active = false →
      ((afterLoss e x).alarms.recs.nth a).state.active = false := fun x h => by
    rw [(told_afterLoss (fun _ => False) e x).state a (by simpa using ha)]; exact h
  unfold clearAlarm
  split
  · apply after
    rw [(told_tell (fun _ => False) e a _).state a (by simp)]
    simp [setAlarm_nth, AlarmState.active]
  · apply after
    rw [(told_tell (fun _ => False) e a _).state a (by simp)]
    simp [setAlarm_nth, AlarmState.active]
  · simp_all [AlarmState.active]
  · simp_all [AlarmState.active]

/-- A clear of an alarm that is not active changes nothing. -/
theorem clearAlarm_of_inactive (e : RepEnv) (a : Fin 512) (r : Reporting)
    (h : (r.alarms.recs.nth a).state.active = false) : clearAlarm e a r = r := by
  unfold clearAlarm
  split <;> simp_all [AlarmState.active]

/-! Whole records of the other alarms -/

/-- A handing over changes no alarm record. -/
theorem handOver_recs (e : RepEnv) (a : Fin 512) (r : Reporting) : (handOver e a r).1.alarms.recs = r.alarms.recs := by
  unfold handOver
  simp only
  split
  · rfl
  · unfold fileNotice
    simp only
    split <;> rfl

/-- What is told of `a` can set the held flag of `a` alone. -/
theorem tell_recs (e : RepEnv) (a b : Fin 512) (r : Reporting) (hb : b ≠ a) :
    (tell e a r).1.alarms.recs.nth b = r.alarms.recs.nth b := by
  unfold tell
  split
  · simp [setHeld_nth, hb]
  · rw [handOver_recs]

/-- A raise changes no record but its own, that of 97 and that of 100. -/
theorem raiseAlarm_recs (e : RepEnv) (a b : Fin 512) (r : Reporting) (hb : b ≠ a) (hl : ¬ byLoss b) :
    (raiseAlarm e a r).alarms.recs.nth b = r.alarms.recs.nth b :=
  raiseChain_induct (Q := fun x => x.alarms.recs.nth b = r.alarms.recs.nth b) (· ≠ b) e
    (fun h => hl (Or.inl h.symm)) (fun h => hl (Or.inr h.symm))
    (fun c x hc _ hx => by
      rw [tell_recs e c b _ (Ne.symm hc)]
      simp [takeRaise, feedShift, raiseRecord_nth, Ne.symm hc, hx])
    (fun _ hx => hx) 4 a r (Ne.symm hb) rfl

theorem afterLoss_recs (e : RepEnv) (b : Fin 512) (x : Reporting × Bool) (hl : ¬ byLoss b) :
    (afterLoss e x).alarms.recs.nth b = x.1.alarms.recs.nth b := by
  unfold afterLoss
  split
  · exact raiseAlarm_recs e 97 b x.1 (fun h => hl (Or.inl h)) hl
  · rfl

/-- A clear changes no record but its own, that of 97 and that of 100. -/
theorem clearAlarm_recs (e : RepEnv) (a b : Fin 512) (r : Reporting) (hb : b ≠ a) (hl : ¬ byLoss b) :
    (clearAlarm e a r).alarms.recs.nth b = r.alarms.recs.nth b := by
  unfold clearAlarm
  split
  · rw [afterLoss_recs e b _ hl, tell_recs e a b _ hb]
    simp [setAlarm_nth, hb]
  · rw [afterLoss_recs e b _ hl, tell_recs e a b _ hb]
    simp [setAlarm_nth, hb]
  · rfl
  · rfl

/-- A notice of another kind changes no record but those of 97 and 100. -/
theorem postNotice_recs (e : RepEnv) (x : NoticeBody) (cls : NoticeClass) (b : Fin 512) (r : Reporting) (hl : ¬ byLoss b) :
    (postNotice e x cls r).alarms.recs.nth b = r.alarms.recs.nth b := by
  unfold postNotice
  rw [afterLoss_recs e b _ hl]
  unfold fileNotice
  simp only
  split <;> rfl

/-- A release can clear the held flag of its alarm, and changes no other record but those of 97 and 100. -/
theorem releaseAlarm_recs (e : RepEnv) (a b : Fin 512) (r : Reporting) (hl : ¬ byLoss b) :
    (releaseAlarm e a r).alarms.recs.nth b =
      if b = a ∧ (r.alarms.recs.nth a).held = true ∧ heldBack e a r.alarms = false then
        { r.alarms.recs.nth b with held := false }
      else r.alarms.recs.nth b := by
  unfold releaseAlarm
  simp only [Bool.and_eq_true, Bool.not_eq_eq_eq_not, Bool.not_true, beq_iff_eq]
  by_cases due : (r.alarms.recs.nth a).held = true ∧ heldBack e a r.alarms = false
  · rw [if_pos due]
    split
    · simp only [setHeld_nth, due, and_self, and_true]
    · rw [afterLoss_recs e b _ hl, handOver_recs]
      simp only [setHeld_nth, due, and_self, and_true]
  · rw [if_neg due, if_neg fun h => due h.2]

end Sys2Proof.Machine
end

