-- ==== Sys2Proof/Laws/Settled.lean ====
section
/-! SUPPORT. What every operation of the reporting side keeps: the two alarm counts agree with the records, the three cell
lists partition the cells, the notice links name the queued alarm cells, and ATTENTION shows whether a notice waits (R130,
R146, R148, R152). -/

namespace Sys2Proof.Machine

/-- The counts agree with the records (R130). -/
def Counted (t : AlarmTable) : Prop :=
  t.unackCount = t.recs.count (·.state.unacked) ∧ t.activeCount = t.recs.count (·.state.active)

/-- The lists partition the cells (R146). -/
def Listed (q : NoticeQueues) : Prop := (q.free ++ q.urgent ++ q.routine).Perm (List.finRange 256)

/-- ATTENTION shows whether a notice waits (R152). -/
def Shown (q : NoticeQueues) : Prop := q.attention = true ↔ q.urgent ≠ [] ∨ q.routine ≠ []

/-- The cell is queued. -/
def Queued (q : NoticeQueues) (c : Fin 256) : Prop := c ∈ q.urgent ∨ c ∈ q.routine

/-- Every queued cell holds a notice of its list's class, and the links name exactly the queued alarm cells (R148). -/
def Linked (q : NoticeQueues) : Prop :=
  ∀ c, (Queued q c → ∃ x, q.cells.nth c = some x ∧ (x.cls = .urgent ↔ c ∈ q.urgent)) ∧
    ∀ a, q.link.nth a = some c ↔ Queued q c ∧ cellAlarm (q.cells.nth c) = some a

/-! Counts -/

theorem counted_setAlarm (clock : Nat) (a : Fin 512) (st : AlarmState) (t : AlarmTable) :
    Counted (setAlarm clock a st t) := by
  simp [Counted, setAlarm, recount]

/-- A table with the counts and the alarm states of a counted one is counted. -/
theorem Counted.of_states {t u : AlarmTable} (h : Counted t) (hu : u.unackCount = t.unackCount)
    (ha : u.activeCount = t.activeCount) (hs : ∀ a, (u.recs.nth a).state = (t.recs.nth a).state) : Counted u := by
  refine ⟨?_, ?_⟩
  · rw [hu, h.1]; exact Tab.count_congr fun a => by rw [hs a]
  · rw [ha, h.2]; exact Tab.count_congr fun a => by rw [hs a]

theorem counted_setHeld (a : Fin 512) (v : Bool) {t : AlarmTable} (h : Counted t) : Counted (setHeld a v t) :=
  h.of_states rfl rfl fun b => by simp only [setHeld_nth]; split <;> rfl

theorem counted_raiseRecord (e : RepEnv) (a : Fin 512) (t : AlarmTable) : Counted (raiseRecord e a t) :=
  (counted_setAlarm e.clock a .unackActive t).of_states rfl rfl fun b => by
    simp only [raiseRecord, Tab.nth_upd]
    split <;> rfl

/-! Lists -/

theorem listed_settle {q : NoticeQueues} (h : Listed q) : Listed (settleAttention q) := h

theorem shown_settle (q : NoticeQueues) : Shown (settleAttention q) := by
  simp only [Shown, settleAttention]
  cases q.urgent <;> cases q.routine <;> simp

/-- A filled cell joins one of the two lists. -/
theorem perm_fillCell (clock : Nat) (b : NoticeBody) (cls : NoticeClass) (c : Fin 256) (q : NoticeQueues) :
    ((fillCell clock b cls c q).free ++ (fillCell clock b cls c q).urgent ++ (fillCell clock b cls c q).routine).Perm
      (c :: (q.free ++ q.urgent ++ q.routine)) := by
  rw [List.perm_iff_count]
  intro x
  cases cls <;> simp only [fillCell, settleAttention, List.count_append, List.count_cons, List.count_nil] <;> omega

theorem listed_fileNew (clock : Nat) (b : NoticeBody) (cls : NoticeClass) {q : NoticeQueues} (h : Listed q) :
    Listed (fileNew clock b cls q).1 := by
  unfold Listed at *
  unfold fileNew
  split
  · rename_i hf
    refine (perm_fillCell _ _ _ _ _).trans ?_
    simpa [hf] using h
  · rename_i hf hr
    refine (perm_fillCell _ _ _ _ _).trans ?_
    simp only [hf, hr, List.nil_append] at h ⊢
    exact List.perm_middle.symm.trans h
  · exact h
  · exact h

theorem shown_fileNew (clock : Nat) (b : NoticeBody) (cls : NoticeClass) {q : NoticeQueues} (h : Shown q) :
    Shown (fileNew clock b cls q).1 := by
  unfold fileNew
  split
  · exact shown_settle _
  · exact shown_settle _
  · exact h
  · exact h

/-! Links -/

theorem setLink_nth (b : NoticeBody) (c : Fin 256) (l : Tab 512 (Option (Fin 256))) (a : Fin 512) :
    (setLink b c l).nth a = if noticeAlarm b = some a then some c else l.nth a := by
  unfold setLink
  split
  · rename_i x h
    rw [Tab.nth_put, h]
    by_cases e : a = x
    · subst e; simp
    · have : x ≠ a := fun k => e k.symm
      simp [e, this]
  · rename_i h
    simp [h]

theorem dropLink_nth (cell : Option NoticeCell) (l : Tab 512 (Option (Fin 256))) (a : Fin 512) :
    (dropLink cell l).nth a = if cellAlarm cell = some a then none else l.nth a := by
  unfold dropLink
  split
  · rename_i x h
    rw [Tab.nth_put, h]
    by_cases e : a = x
    · subst e; simp
    · have : x ≠ a := fun k => e k.symm
      simp [e, this]
  · rename_i h
    simp [h]

@[simp] theorem cellAlarm_newCell (clock : Nat) (b : NoticeBody) (cls : NoticeClass) :
    cellAlarm (some (newCell clock b cls)) = noticeAlarm b := by cases b <;> rfl

/-- A free cell filled for an alarm without a link, or for another kind, keeps the links. -/
theorem linked_fillCell (clock : Nat) (b : NoticeBody) (cls : NoticeClass) (c : Fin 256) {q : NoticeQueues} (h : Linked q)
    (hc : ¬ Queued q c) (hb : ∀ a, noticeAlarm b = some a → q.link.nth a = none) :
    Linked (fillCell clock b cls c q) := by
  have hu : c ∉ q.urgent := fun k => hc (Or.inl k)
  have hq : ∀ d, Queued (fillCell clock b cls c q) d ↔ Queued q d ∨ d = c := fun d => by
    cases cls <;> simp only [Queued, fillCell, settleAttention, List.mem_append, List.mem_singleton] <;> tauto
  have hm : ∀ d, d ∈ (fillCell clock b cls c q).urgent ↔ d ∈ q.urgent ∨ (cls = .urgent ∧ d = c) := fun d => by
    cases cls <;> simp [fillCell, settleAttention]
  have hl : ∀ a, (fillCell clock b cls c q).link.nth a = if noticeAlarm b = some a then some c else q.link.nth a :=
    fun a => setLink_nth b c q.link a
  have hn : ∀ d, (fillCell clock b cls c q).cells.nth d = if d = c then some (newCell clock b cls) else q.cells.nth d :=
    fun d => Tab.nth_put _ _ _ _
  intro d
  rw [hq, hn]
  by_cases e : d = c
  · subst e
    refine ⟨fun _ => ⟨newCell clock b cls, by simp, ?_⟩, fun a => ?_⟩
    · rw [hm]
      simp [hu, newCell]
    · rw [hl]
      by_cases ha : noticeAlarm b = some a
      · simp [ha]
      · have := ((h d).2 a).1
        simp only [↓reduceIte, cellAlarm_newCell, ha, and_false, iff_false]
        exact fun k => hc (this k).1
  · simp only [e, or_false]
    refine ⟨fun k => ?_, fun a => ?_⟩
    · obtain ⟨x, hx, hy⟩ := (h d).1 k
      exact ⟨x, hx, by rw [hm]; simp [e, hy]⟩
    · rw [hl]
      by_cases ha : noticeAlarm b = some a
      · have := ((h d).2 a).2
        rw [hb a ha] at this
        simp only [if_pos ha]
        refine ⟨fun k => absurd (Option.some.inj k).symm e, fun k => absurd (this k) (by simp)⟩
      · rw [if_neg ha]
        exact (h d).2 a

/-- The oldest ROUTINE cell leaves its list with its link dropped: the links are kept. -/
theorem linked_steal {q : NoticeQueues} {c : Fin 256} {rest : List (Fin 256)} (h : Linked q) (hl : Listed q)
    (hr : q.routine = c :: rest) :
    Linked { q with routine := rest, link := dropLink (q.cells.nth c) q.link } ∧
      ¬ Queued { q with routine := rest, link := dropLink (q.cells.nth c) q.link } c := by
  have nd : (q.free ++ q.urgent ++ q.routine).Nodup := (List.Perm.nodup_iff hl).2 (List.nodup_finRange 256)
  rw [hr] at nd
  have hcu : c ∉ q.urgent := fun k => by
    have := (List.nodup_append.1 nd).2.2 c (by simp [k]) c (by simp)
    exact this rfl
  have hcr : c ∉ rest := (List.nodup_cons.1 (List.nodup_append.1 nd).2.1).1
  refine ⟨fun d => ?_, by simp [Queued, hcu, hcr]⟩
  have hq : Queued { q with routine := rest, link := dropLink (q.cells.nth c) q.link } d ↔ Queued q d ∧ d ≠ c := by
    simp only [Queued, hr, List.mem_cons]
    constructor
    · rintro (k | k)
      · exact ⟨Or.inl k, fun e => hcu (e ▸ k)⟩
      · exact ⟨Or.inr (Or.inr k), fun e => hcr (e ▸ k)⟩
    · rintro ⟨k | k | k, e⟩
      · exact Or.inl k
      · exact absurd k e
      · exact Or.inr k
  rw [hq]
  refine ⟨fun k => (h d).1 k.1, fun a => ?_⟩
  simp only
  rw [dropLink_nth]
  have hd := (h d).2 a
  have hc := (h c).2 a
  by_cases ha : cellAlarm (q.cells.nth c) = some a
  · rw [if_pos ha]
    have := hc.2 ⟨by simp [Queued, hr], ha⟩
    rw [this] at hd
    simp only [reduceCtorEq, false_iff, not_and]
    rintro ⟨k, e⟩ l
    exact e (Option.some.inj (hd.2 ⟨k, l⟩)).symm
  · rw [if_neg ha, hd]
    constructor
    · rintro ⟨k, l⟩
      exact ⟨⟨k, fun e => ha (e ▸ l)⟩, l⟩
    · rintro ⟨⟨k, _⟩, l⟩
      exact ⟨k, l⟩

theorem linked_fileNew (clock : Nat) (b : NoticeBody) (cls : NoticeClass) {q : NoticeQueues} (hl : Listed q)
    (h : Linked q) (hb : ∀ a, noticeAlarm b = some a → q.link.nth a = none) :
    Linked (fileNew clock b cls q).1 := by
  have nd : (q.free ++ q.urgent ++ q.routine).Nodup := (List.Perm.nodup_iff hl).2 (List.nodup_finRange 256)
  unfold fileNew
  split
  · rename_i c free hf
    refine linked_fillCell clock b _ c (q := { q with free := free }) h ?_ hb
    rw [hf] at nd
    simp only [List.cons_append, List.nodup_cons, List.mem_append] at nd
    simp only [Queued]
    tauto
  · rename_i hf hr
    obtain ⟨k₁, k₂⟩ := linked_steal h hl hr
    refine linked_fillCell clock b .urgent _ k₁ k₂ fun a ha => ?_
    simp only
    rw [dropLink_nth]
    split
    · rfl
    · exact hb a ha
  · exact h
  · exact h

/-- A change in place of the cell that an alarm's link names keeps the links. -/
theorem linked_coalesce (clock : Nat) {a : Fin 512} (st : AlarmState) {c : Fin 256} {q : NoticeQueues} (h : Linked q)
    (hc : q.link.nth a = some c) : Linked (coalesce clock a st c q) := by
  obtain ⟨hq, ha⟩ := ((h c).2 a).1 hc
  obtain ⟨x, hx, hy⟩ := (h c).1 hq
  have hn : ∀ d, (coalesce clock a st c q).cells.nth d = if d = c then
      some { x with body := .alarm a st, lastTime := clock, transitions := satInc 255 x.transitions } else q.cells.nth d := by
    intro d
    simp only [coalesce, Tab.nth_upd]
    by_cases e : d = c
    · subst e; simp [hx]
    · simp [e]
  intro d
  rw [hn]
  refine ⟨fun k => ?_, fun b => ?_⟩
  · by_cases e : d = c
    · subst e
      exact ⟨{ x with body := .alarm a st, lastTime := clock, transitions := satInc 255 x.transitions }, by simp, hy⟩
    · simp only [if_neg e]
      exact (h d).1 k
  · by_cases e : d = c
    · subst e
      simp only [↓reduceIte]
      exact ((h d).2 b).trans (by rw [ha]; rfl)
    · simp only [if_neg e]
      exact (h d).2 b

/-! All four -/

/-- From `r` to `r'` each of the four agreements is kept. -/
structure Keeps (r r' : Reporting) : Prop where
  counted : Counted r.alarms → Counted r'.alarms
  listed : Listed r.notices → Listed r'.notices
  shown : Shown r.notices → Shown r'.notices
  linked : Listed r.notices → Linked r.notices → Linked r'.notices

namespace Keeps
variable {r r' r'' : Reporting}

theorem refl (r : Reporting) : Keeps r r := ⟨id, id, id, fun _ => id⟩

theorem trans (h : Keeps r r') (k : Keeps r' r'') : Keeps r r'' :=
  ⟨fun x => k.counted (h.counted x), fun x => k.listed (h.listed x), fun x => k.shown (h.shown x),
    fun x y => k.linked (h.listed x) (h.linked x y)⟩

/-- A step that leaves the queues. -/
theorem ofAlarms (h : Counted r.alarms → Counted r'.alarms) (k : r'.notices = r.notices) : Keeps r r' :=
  ⟨h, by rw [k]; exact id, by rw [k]; exact id, fun _ => by rw [k]; exact id⟩

theorem foldl {α : Type} (f : Reporting → α → Reporting) (hf : ∀ r x, Keeps r (f r x)) (xs : List α) (r : Reporting) :
    Keeps r (xs.foldl f r) := by
  induction xs generalizing r with
  | nil => exact refl r
  | cons x xs ih => exact (hf r x).trans (ih _)

end Keeps

theorem keeps_feedShift (f : ShiftRecord → ShiftRecord) (r : Reporting) : Keeps r (feedShift f r) := .ofAlarms id rfl

theorem keeps_countLoss (r : Reporting) : Keeps r (countLoss r) := ⟨id, id, id, fun _ => id⟩

/-- A notice filed anew, of another kind or for an alarm without a link. -/
theorem keeps_fileNotice (clock : Nat) (b : NoticeBody) (cls : NoticeClass) (r : Reporting)
    (hb : ∀ a, noticeAlarm b = some a → r.notices.link.nth a = none) : Keeps r (fileNotice clock b cls r).1 := by
  have k : Keeps r { r with notices := (fileNew clock b cls r.notices).1 } :=
    ⟨id, listed_fileNew _ _ _, shown_fileNew _ _ _, fun x y => linked_fileNew _ _ _ x y hb⟩
  unfold fileNotice
  simp only
  split
  · exact k.trans (keeps_countLoss _)
  · exact k

theorem keeps_setHeld (a : Fin 512) (v : Bool) (r : Reporting) : Keeps r { r with alarms := setHeld a v r.alarms } :=
  .ofAlarms (counted_setHeld a v) rfl

theorem keeps_handOver (e : RepEnv) (a : Fin 512) (r : Reporting) : Keeps r (handOver e a r).1 := by
  unfold handOver
  simp only
  split
  · rename_i hc
    exact ⟨id, id, id, fun _ y => linked_coalesce _ _ y hc⟩
  · rename_i hc
    exact keeps_fileNotice _ _ _ r fun b hb => by cases hb; exact hc

theorem keeps_tell (e : RepEnv) (a : Fin 512) (r : Reporting) : Keeps r (tell e a r).1 := by
  unfold tell
  split
  · exact keeps_setHeld a true r
  · exact keeps_handOver e a r

theorem keeps_takeRaise (e : RepEnv) (a : Fin 512) (r : Reporting) : Keeps r (takeRaise e a r) :=
  .ofAlarms (fun _ => counted_raiseRecord e a r.alarms) rfl

theorem keeps_raiseChain (fuel : Nat) (e : RepEnv) (a : Fin 512) (r : Reporting) : Keeps r (raiseChain fuel e a r) :=
  raiseChain_induct (Q := Keeps r) (fun _ => True) e trivial trivial
    (fun b x _ _ hx => hx.trans ((keeps_takeRaise e b x).trans (keeps_tell e b _)))
    (fun _ hx => hx.trans (.ofAlarms id rfl)) fuel a r trivial (.refl r)

theorem keeps_raiseAlarm (e : RepEnv) (a : Fin 512) (r : Reporting) : Keeps r (raiseAlarm e a r) :=
  keeps_raiseChain 4 e a r

theorem keeps_afterLoss (e : RepEnv) (x : Reporting × Bool) : Keeps x.1 (afterLoss e x) := by
  unfold afterLoss
  split
  · exact keeps_raiseAlarm e 97 x.1
  · exact .refl _

theorem keeps_setAlarm (clock : Nat) (a : Fin 512) (st : AlarmState) (r : Reporting) :
    Keeps r { r with alarms := setAlarm clock a st r.alarms } := .ofAlarms (fun _ => counted_setAlarm _ _ _ _) rfl

theorem keeps_clearAlarm (e : RepEnv) (a : Fin 512) (r : Reporting) : Keeps r (clearAlarm e a r) := by
  unfold clearAlarm
  split
  · exact (keeps_setAlarm _ a _ r).trans ((keeps_tell e a _).trans (keeps_afterLoss e _))
  · exact (keeps_setAlarm _ a _ r).trans ((keeps_tell e a _).trans (keeps_afterLoss e _))
  · exact .refl r
  · exact .refl r

/-- A notice of another kind than ALARM. -/
theorem keeps_postNotice (e : RepEnv) (b : NoticeBody) (cls : NoticeClass) (r : Reporting) (hb : noticeAlarm b = none) :
    Keeps r (postNotice e b cls r) :=
  (keeps_fileNotice _ b cls r fun a ha => by rw [hb] at ha; cases ha).trans (keeps_afterLoss e _)

theorem keeps_ackAlarm (e : RepEnv) (a : Fin 512) (r : Reporting) : Keeps r (ackAlarm e a r) := by
  unfold ackAlarm
  simp only
  split
  · split
    · rename_i hc
      refine (keeps_setAlarm e.clock a (r.alarms.recs.nth a).state.acked r).trans ?_
      split
      · exact .refl _
      · exact ⟨id, id, id, fun _ y => linked_coalesce _ _ y hc⟩
    · exact keeps_setAlarm _ a _ r
  · exact .refl r

theorem keeps_releaseAlarm (e : RepEnv) (a : Fin 512) (r : Reporting) : Keeps r (releaseAlarm e a r) := by
  unfold releaseAlarm
  simp only
  split
  · split
    · exact keeps_setHeld a false r
    · exact (keeps_setHeld a false r).trans ((keeps_handOver e a _).trans (keeps_afterLoss e _))
  · exact .refl r

theorem keeps_releaseEach (e : RepEnv) (as : List (Fin 512)) (r : Reporting) : Keeps r (releaseEach e as r) :=
  .foldl _ (fun r a => keeps_releaseAlarm e a r) as r

theorem keeps_releaseHeld (e : RepEnv) (r : Reporting) : Keeps r (releaseHeld e r) := keeps_releaseEach e _ r

theorem keeps_floodOff (e : RepEnv) (r : Reporting) : Keeps r (floodOff e r) := by
  have h : Keeps r { r with alarms := { r.alarms with flood := false } } := .ofAlarms id rfl
  unfold floodOff
  split
  · exact h.trans ((keeps_clearAlarm e 100 _).trans (keeps_releaseHeld e _))
  · exact .refl r

theorem keeps_floodSecond (e : RepEnv) (r : Reporting) : Keeps r (floodSecond e r) := by
  have h (x : Reporting) : Keeps x { x with alarms :=
      { x.alarms with buckets := ageBuckets x.alarms.buckets, secondTimer := Config.sec 1 } } := .ofAlarms id rfl
  unfold floodSecond
  simp only
  split
  · exact (keeps_feedShift _ r).trans ((h _).trans (keeps_floodOff e _))
  · exact (h r).trans (keeps_floodOff e _)

/-- An operation on the records that changes no state keeps the counts. -/
theorem counted_foldl (f : AlarmRec → AlarmRec) (hf : ∀ x, (f x).state = x.state) (as : List (Fin 512))
    {t : AlarmTable} (h : Counted t) : Counted { t with recs := as.foldl (fun recs a => recs.upd a f) t.recs } := by
  refine h.of_states rfl rfl fun b => ?_
  simp only
  clear h
  generalize t.recs = recs
  induction as generalizing recs with
  | nil => rfl
  | cons a as ih =>
    rw [List.foldl_cons, ih, Tab.nth_upd]
    split
    · exact hf _
    · rfl

theorem keeps_shelveMinute (e : RepEnv) (r : Reporting) : Keeps r (shelveMinute e r) := by
  have low : Counted r.alarms → Counted (lowerMinutes r.alarms) := fun h =>
    h.of_states rfl rfl fun b => by simp only [lowerMinutes, Tab.nth_mapAll]; split <;> rfl
  have off : Counted r.alarms → ∀ due, Counted (unshelveEach due (lowerMinutes r.alarms)) := fun h due =>
    counted_foldl (fun x => { x with shelved := false, shelveMinutes := 0 }) (fun _ => rfl) due (low h)
  unfold shelveMinute
  simp only
  generalize Tab.select _ _ = due
  have h : Keeps r { r with alarms := { unshelveEach due (lowerMinutes r.alarms) with minuteTimer := Config.sec 60 } } :=
    .ofAlarms (fun h => (off h due).of_states rfl rfl fun _ => rfl) rfl
  exact h.trans (keeps_releaseEach e due _)

/-- The mode given to the Alarm Table is in none of the four. -/
theorem keeps_giveMode (md : KilnMode) (r : Reporting) : Keeps r { r with alarms := { r.alarms with mode := md } } :=
  .ofAlarms id rfl

/-! Fetching -/

theorem freeCells_lists (cs : List (Fin 256)) (q : NoticeQueues) :
    (cs.foldl freeCell q).free = q.free ++ cs ∧ (cs.foldl freeCell q).urgent = q.urgent ∧
      (cs.foldl freeCell q).routine = q.routine := by
  induction cs generalizing q with
  | nil => simp
  | cons c cs ih =>
    obtain ⟨h₁, h₂, h₃⟩ := ih (freeCell q c)
    simp only [List.foldl_cons, h₁, h₂, h₃]
    simp [freeCell]

theorem listed_fetchCells (n : Nat) {q : NoticeQueues} (h : Listed q) : Listed (fetchCells n q) := by
  unfold Listed at *
  have hf : (fetchCells n q).free = q.free ++ fetched n q := (freeCells_lists (fetched n q) q).1
  have hu : (fetchCells n q).urgent = q.urgent.drop n := rfl
  have hr : (fetchCells n q).routine = q.routine.drop (n - q.urgent.length) := rfl
  rw [hf, hu, hr, fetched]
  refine List.Perm.trans ?_ h
  have hu := List.take_append_drop n q.urgent
  have hr := List.take_append_drop (n - q.urgent.length) q.routine
  rw [List.perm_iff_count]
  intro c
  have hu' : q.urgent.count c = (q.urgent.take n).count c + (q.urgent.drop n).count c := by
    rw [← List.count_append, hu]
  have hr' : q.routine.count c = (q.routine.take (n - q.urgent.length)).count c +
      (q.routine.drop (n - q.urgent.length)).count c := by
    rw [← List.count_append, hr]
  simp only [List.count_append]
  omega

/-- What freeing several cells leaves in the cells and the links. -/
theorem freeCells_nth (cs : List (Fin 256)) (q : NoticeQueues) (hd : cs.Nodup) :
    (∀ c, (cs.foldl freeCell q).cells.nth c = if c ∈ cs then none else q.cells.nth c) ∧
      ∀ a, (cs.foldl freeCell q).link.nth a =
        if ∃ c ∈ cs, cellAlarm (q.cells.nth c) = some a then none else q.link.nth a := by
  induction cs generalizing q with
  | nil => simp
  | cons d cs ih =>
    obtain ⟨hn, hd⟩ := List.nodup_cons.1 hd
    obtain ⟨h₁, h₂⟩ := ih (freeCell q d) hd
    have cell (c : Fin 256) : (freeCell q d).cells.nth c = if c = d then none else q.cells.nth c := Tab.nth_put _ _ _ _
    have link (a : Fin 512) : (freeCell q d).link.nth a =
        if cellAlarm (q.cells.nth d) = some a then none else q.link.nth a := dropLink_nth _ _ _
    refine ⟨fun c => ?_, fun a => ?_⟩
    · rw [List.foldl_cons, h₁, cell]
      by_cases e : c = d <;> simp [e]
    · rw [List.foldl_cons, h₂, link]
      have same : (∃ c ∈ cs, cellAlarm ((freeCell q d).cells.nth c) = some a) ↔
          ∃ c ∈ cs, cellAlarm (q.cells.nth c) = some a := by
        refine exists_congr fun c => and_congr_right fun hc => ?_
        have : c ≠ d := fun e => hn (e ▸ hc)
        rw [cell, if_neg this]
      simp only [same, List.mem_cons, exists_eq_or_imp]
      by_cases x : cellAlarm (q.cells.nth d) = some a <;> simp [x]

theorem linked_fetchCells (n : Nat) {q : NoticeQueues} (hl : Listed q) (h : Linked q) : Linked (fetchCells n q) := by
  have nd : (q.free ++ q.urgent ++ q.routine).Nodup := (List.Perm.nodup_iff hl).2 (List.nodup_finRange 256)
  have nq : (q.urgent ++ q.routine).Nodup := by
    rw [List.append_assoc] at nd
    exact (List.nodup_append.1 nd).2.1
  obtain ⟨nu, nr, dj⟩ := List.nodup_append.1 nq
  have ft : (fetched n q).Nodup := by
    refine List.nodup_append.2 ⟨nu.sublist (List.take_sublist _ _), nr.sublist (List.take_sublist _ _), fun x hx y hy => ?_⟩
    exact dj x (List.mem_of_mem_take hx) y (List.mem_of_mem_take hy)
  obtain ⟨hc, hk⟩ := freeCells_nth (fetched n q) q ft
  have split (l : List (Fin 256)) (k : Nat) (hn : l.Nodup) (c : Fin 256) : c ∈ l.drop k ↔ c ∈ l ∧ c ∉ l.take k := by
    have e := List.take_append_drop k l
    have := (List.nodup_append.1 (e.symm ▸ hn : (l.take k ++ l.drop k).Nodup)).2.2
    constructor
    · exact fun x => ⟨List.mem_of_mem_drop x, fun y => this c y c x rfl⟩
    · rintro ⟨x, y⟩
      rw [← e, List.mem_append] at x
      exact x.resolve_left y
  have hu (c : Fin 256) : c ∈ (fetchCells n q).urgent ↔ c ∈ q.urgent ∧ c ∉ fetched n q := by
    change c ∈ q.urgent.drop n ↔ _
    rw [split _ _ nu, fetched, List.mem_append]
    constructor
    · rintro ⟨x, y⟩
      exact ⟨x, fun z => z.elim y fun w => dj c x c (List.mem_of_mem_take w) rfl⟩
    · rintro ⟨x, y⟩
      exact ⟨x, fun z => y (Or.inl z)⟩
  have hr (c : Fin 256) : c ∈ (fetchCells n q).routine ↔ c ∈ q.routine ∧ c ∉ fetched n q := by
    change c ∈ q.routine.drop (n - q.urgent.length) ↔ _
    rw [split _ _ nr, fetched, List.mem_append]
    constructor
    · rintro ⟨x, y⟩
      exact ⟨x, fun z => z.elim (fun w => dj c (List.mem_of_mem_take w) c x rfl) y⟩
    · rintro ⟨x, y⟩
      exact ⟨x, fun z => y (Or.inr z)⟩
  have hq (c : Fin 256) : Queued (fetchCells n q) c ↔ Queued q c ∧ c ∉ fetched n q := by
    simp only [Queued, hu, hr]
    tauto
  intro c
  rw [hq, hu]
  change (_ → ∃ x, ((fetched n q).foldl freeCell q).cells.nth c = some x ∧ _) ∧
    ∀ a, ((fetched n q).foldl freeCell q).link.nth a = some c ↔
      _ ∧ cellAlarm (((fetched n q).foldl freeCell q).cells.nth c) = some a
  rw [hc]
  refine ⟨fun ⟨x, y⟩ => ?_, fun a => ?_⟩
  · rw [if_neg y]
    obtain ⟨z, hz, hy⟩ := (h c).1 x
    exact ⟨z, hz, by simp [hy, y]⟩
  · rw [hk]
    have ha := (h c).2 a
    by_cases t : ∃ d ∈ fetched n q, cellAlarm (q.cells.nth d) = some a
    · rw [if_pos t]
      obtain ⟨d, hd, hx⟩ := t
      have qd : Queued q d := by
        rw [fetched, List.mem_append] at hd
        exact hd.imp List.mem_of_mem_take List.mem_of_mem_take
      have ld := ((h d).2 a).2 ⟨qd, hx⟩
      rw [ld] at ha
      simp only [reduceCtorEq, false_iff, not_and]
      rintro ⟨x, y⟩ z
      rw [if_neg y] at z
      exact y ((Option.some.inj (ha.2 ⟨x, z⟩)) ▸ hd)
    · rw [if_neg t, ha]
      constructor
      · rintro ⟨x, y⟩
        have k : c ∉ fetched n q := fun k => t ⟨c, k, y⟩
        exact ⟨⟨x, k⟩, by rw [if_neg k]; exact y⟩
      · rintro ⟨⟨x, y⟩, z⟩
        rw [if_neg y] at z
        exact ⟨x, z⟩

theorem keeps_fetchCells (n : Nat) (r : Reporting) : Keeps r { r with notices := fetchCells n r.notices } :=
  ⟨id, listed_fetchCells n, fun _ => shown_settle _, linked_fetchCells n⟩

end Sys2Proof.Machine
end

