-- ==== Sys2Proof/Laws/LineFrames.lean ====
section
/-! SUPPORT. What the operations on fuel lines can change: lines, demand records, the lines' channels and what they report,
and nothing else; and they keep the agreements of the reporting side. -/

namespace Sys2Proof.Machine

/-- From `s` to `t` only lines, demand records, channels that lines own and the reporting side changed, and of the alarms
only those `p` names. -/
structure LineReach (p : Fin 512 → Prop) (s t : State) : Prop where
  frame : t = { s with fuel := t.fuel, channels := t.channels, rep := t.rep }
  fuel : fuelKept s t
  channels : channelsKept s t
  told : Told p s.rep t.rep
  keeps : Keeps s.rep t.rep

/-- The alarms that line operations change. -/
def lineSet (a : Fin 512) : Prop := lineAlarms a ∨ byLoss a

theorem lineAlarm_mem (m : Fin 6) (k : Fin 4) : lineAlarms (lineAlarm m k) := by
  simp only [lineAlarms, lineAlarm]; omega

theorem modeGiven.trans {s t u : State} (h : modeGiven s t) (k : modeGiven t u) : modeGiven s u := by
  unfold modeGiven at *
  rcases k with ⟨a, b⟩ | k
  · exact h.imp (fun x => ⟨a.trans x.1, b.trans x.2⟩) fun x => b.trans (x.trans a.symm)
  · exact Or.inr k

theorem Reported.keeps {p : Fin 512 → Prop} {s t : State} (h : Reported p s.rep t.rep) (m : modeGiven s t) :
    repKept s t ∧ alarmsKept p s t := ⟨⟨h.shift, h.sticky, h.minute, h.second, m⟩, h.state⟩

namespace LineReach
variable {p q : Fin 512 → Prop} {s t u : State}

theorem refl (p : Fin 512 → Prop) (s : State) : LineReach p s s := ⟨rfl, rfl, fun _ _ => rfl, Told.refl p _, .refl _⟩

theorem settings (h : LineReach p s t) : t.settings = s.settings := by rw [h.frame]
theorem clock (h : LineReach p s t) : t.clock = s.clock := by rw [h.frame]
theorem burners (h : LineReach p s t) : t.burners = s.burners := by rw [h.frame]
theorem points (h : LineReach p s t) : t.points = s.points := by rw [h.frame]
theorem kiln (h : LineReach p s t) : t.kiln = s.kiln := by rw [h.frame]
theorem cooler (h : LineReach p s t) : t.cooler = s.cooler := by rw [h.frame]
theorem link (h : LineReach p s t) : t.link = s.link := by rw [h.frame]
theorem mode (h : LineReach p s t) : modeGiven s t := Or.inl ⟨by rw [h.kiln], h.told.mode⟩

theorem trans (h : LineReach p s t) (k : LineReach p t u) : LineReach p s u where
  frame := by have := h.frame; have := k.frame; grind
  fuel := by have := h.fuel; have := k.fuel; unfold fuelKept at *; grind
  channels c hc := (k.channels c (by rw [h.settings]; exact hc)).trans (h.channels c hc)
  told := h.told.trans k.told
  keeps := h.keeps.trans k.keeps

theorem mono (h : LineReach p s t) (pq : ∀ a, p a → q a) : LineReach q s t := { h with told := h.told.mono pq }

theorem foldl {α : Type} (f : State → α → State) (hf : ∀ s x, LineReach p s (f s x)) (xs : List α) (s : State) :
    LineReach p s (xs.foldl f s) := by
  induction xs generalizing s with
  | nil => exact refl p s
  | cons x xs ih => exact (hf s x).trans (ih _)

/-- A step of the reporting side alone. -/
theorem ofRep (r : Reporting) (h : Told p s.rep r) (k : Keeps s.rep r) : LineReach p s { s with rep := r } :=
  ⟨rfl, rfl, fun _ _ => rfl, h, k⟩

/-- A change of the Fuel Line Controller that leaves its period. -/
theorem ofFuel (f : FuelCtl) (h : f = { s.fuel with lines := f.lines, demands := f.demands, ignition := f.ignition }) :
    LineReach p s { s with fuel := f } := ⟨rfl, h, fun _ _ => rfl, Told.refl _ _, .refl _⟩

/-- The frame of the obligations. -/
theorem lineFrame (h : LineReach lineSet s t) : lineFrame s t :=
  ⟨h.frame, h.fuel, h.channels, (h.told.keeps h.mode).1, (h.told.keeps h.mode).2⟩

end LineReach

/-! Shared operations -/

theorem lines_raise {p : Fin 512 → Prop} (a : Fin 512) (s : State) (h : ∀ x, x = a ∨ byLoss x → p x) :
    LineReach p s (raise a s) := .ofRep _ ((told_raiseAlarm _ a _).mono h) (keeps_raiseAlarm _ a _)

theorem lines_clear {p : Fin 512 → Prop} (a : Fin 512) (s : State) (h : ∀ x, x = a ∨ byLoss x → p x) :
    LineReach p s (clear a s) := .ofRep _ ((told_clearAlarm _ a _).mono h) (keeps_clearAlarm _ a _)

theorem lines_follow {p : Fin 512 → Prop} (a : Fin 512) (c : Bool) (s : State) (h : ∀ x, x = a ∨ byLoss x → p x) :
    LineReach p s (follow a c s) := by
  unfold follow
  split
  · exact lines_raise a s h
  · exact lines_clear a s h

/-- A notice of another kind than ALARM. -/
theorem lines_post {p : Fin 512 → Prop} (b : NoticeBody) (cls : NoticeClass) (s : State) (hb : noticeAlarm b = none)
    (h : ∀ x, byLoss x → p x) : LineReach p s (post b cls s) :=
  .ofRep _ ((told_postNotice _ b cls _).mono h) (keeps_postNotice _ b cls _ hb)

theorem lines_feed (p : Fin 512 → Prop) (f : ShiftRecord → ShiftRecord) (s : State) : LineReach p s (feed f s) :=
  .ofRep _ (told_feedShift p f _) (keeps_feedShift f _)

theorem lines_account (p : Fin 512 → Prop) (f : ShiftRecord × Carries → ShiftRecord × Carries) (s : State) :
    LineReach p s (onAccount f s) :=
  .ofRep _ (by apply Told.of <;> simp) (.ofAlarms id rfl)

theorem lines_onLine (p : Fin 512 → Prop) (m : Fin 6) (f : LineRec → LineRec) (s : State) :
    LineReach p s (onLine m f s) := .ofFuel _ rfl

theorem lines_onDemand (p : Fin 512 → Prop) (n : Fin 3) (f : DemandRec → DemandRec) (s : State) :
    LineReach p s (onDemand n f s) := .ofFuel _ rfl

theorem lines_endIgnition (p : Fin 512 → Prop) (n : Fin 3) (s : State) : LineReach p s (endIgnition n s) :=
  .ofFuel _ rfl

/-! Channels -/

/-- The channel that `channelOf` finds carries the role. -/
theorem owner_channelOf {cfg : Settings} {r : Role} {c : Fin 24} (h : cfg.channelOf r = some c) :
    (cfg.channels.nth c).owner = some r := by
  have := List.mem_of_mem_head? (a := c) (l := cfg.channels.select fun c => c.owner == some r) (by
    simpa [Settings.channelOf] using h)
  simpa using this

/-- A change of one channel that a line owns. -/
theorem lines_onChannel (p : Fin 512 → Prop) (m : Fin 6) (c : Fin 24) (f : ChannelRec → ChannelRec) (s : State)
    (h : (s.settings.channels.nth c).owner = some (.lineDrive m) ∨
      (s.settings.channels.nth c).owner = some (.lineFeedback m)) : LineReach p s (onChannel c f s) where
  frame := rfl
  fuel := rfl
  told := Told.refl _ _
  keeps := .refl _
  channels d hd := by
    have : d ≠ c := by
      rintro rfl
      rcases h with h | h
      · exact (hd m).1 h
      · exact (hd m).2 h
    simp [Tab.nth_upd_ne _ this]

theorem lines_onRole (p : Fin 512 → Prop) (m : Fin 6) (r : Role) (f : ChannelCfg → ChannelRec → ChannelRec) (s : State)
    (h : r = .lineDrive m ∨ r = .lineFeedback m) : LineReach p s (onRole r f s) := by
  unfold onRole
  split
  · rename_i c hc
    have ho := owner_channelOf hc
    exact lines_onChannel p m c _ s (by rcases h with rfl | rfl <;> simp [ho])
  · exact .refl p s

theorem lines_captureEdges (p : Fin 512 → Prop) (m : Fin 6) (s : State) :
    LineReach p s (captureEdges (.lineFeedback m) s).2 := by
  unfold captureEdges
  split
  · rename_i c hc
    exact lines_onChannel p m c _ s (Or.inr (owner_channelOf hc))
  · exact .refl p s

theorem lines_captureCycles (p : Fin 512 → Prop) (m : Fin 6) (s : State) :
    LineReach p s (captureCycles (.lineDrive m) s).2 := by
  unfold captureCycles
  split
  · rename_i c hc
    exact lines_onChannel p m c _ s (Or.inl (owner_channelOf hc))
  · exact .refl p s

/-! Line operations -/

theorem lineSet_alarm (m : Fin 6) (k : Fin 4) (x : Fin 512) (h : x = lineAlarm m k ∨ byLoss x) : lineSet x := by
  rcases h with rfl | h
  · exact Or.inl (lineAlarm_mem m k)
  · exact Or.inr h

theorem lines_handRate (m : Fin 6) (s : State) : LineReach lineSet s (handRate m s) :=
  (lines_onRole lineSet m _ _ s (Or.inl rfl)).trans
    ((lines_onLine _ m _ _).trans (lines_follow _ _ _ (lineSet_alarm m 3)))

theorem lines_setRate (m : Fin 6) (c : Nat) (s : State) : LineReach lineSet s (setRate m c s) :=
  (lines_onLine _ m _ s).trans (lines_handRate m _)

theorem lines_stopLine (m : Fin 6) (s : State) : LineReach lineSet s (stopLine m s) :=
  (lines_onLine _ m _ s).trans ((lines_setRate m 0 _).trans (lines_clear _ _ (lineSet_alarm m 1)))

theorem lines_startWindow (m : Fin 6) (s : State) : LineReach lineSet s (startWindow m s) := by
  unfold startWindow
  split
  · exact (lines_captureEdges _ m s).trans ((lines_captureCycles _ m _).trans (lines_onLine _ m _ _))
  · exact .refl _ s

theorem lines_postLine (m : Fin 6) (st : LineState) (s : State) : LineReach lineSet s (postLine m st s) := by
  unfold postLine
  refine LineReach.trans ?_ (lines_post _ _ _ rfl fun _ => Or.inr)
  split
  · exact lines_feed _ _ s
  · exact .refl _ s

theorem lines_enterChange (m : Fin 6) (old st : LineState) (s : State) :
    LineReach lineSet s (enterChange m old st s) := by
  unfold enterChange
  cases st <;> simp only
  case starting => exact lines_setRate m _ s
  case off | waiting | tripped =>
    split
    · exact lines_stopLine m s
    · exact .refl _ s
  case auto | manual =>
    split
    · exact .refl _ s
    · exact lines_startWindow m s

theorem lines_enterLine (m : Fin 6) (st : LineState) (s : State) : LineReach lineSet s (enterLine m st s) := by
  unfold enterLine
  simp only
  split
  · exact .refl _ s
  · exact (lines_onLine _ m _ s).trans ((lines_enterChange m _ st _).trans (lines_postLine m st _))

theorem lines_altSupportAlarm (m : Fin 6) (s : State) : LineReach lineSet s (altSupportAlarm m s) := by
  unfold altSupportAlarm
  simp only
  split
  · split
    · exact lines_raise _ s (lineSet_alarm m 2)
    · exact .refl _ s
  · exact lines_clear _ s (lineSet_alarm m 2)

theorem lines_reformLine (m : Fin 6) (s : State) : LineReach lineSet s (reformLine m s) :=
  (lines_enterLine m _ s).trans (lines_altSupportAlarm m _)

theorem lines_reformTelling (tell : Fin 6 → State → State) (ht : ∀ m s, LineReach lineSet s (tell m s))
    (p : State → Fin 6 → Bool) (s : State) : LineReach lineSet s (reformTelling tell p s) :=
  LineReach.foldl _ (fun s m => by
    split
    · exact (ht m s).trans (lines_reformLine m _)
    · exact ht m s) lineList s

theorem lines_reformLines (p : State → Fin 6 → Bool) (s : State) : LineReach lineSet s (reformLines p s) :=
  lines_reformTelling _ (fun _ s => .refl _ s) p s

theorem lines_reformBurner (n : Fin 3) (s : State) : LineReach lineSet s (reformBurner n s) := lines_reformLines _ s

theorem lines_reformAll (s : State) : LineReach lineSet s (reformAll s) := lines_reformLines _ s

theorem lines_reformFrom (m : Fin 6) (s : State) : LineReach lineSet s (reformFrom m s) := lines_reformBurner _ s

theorem lines_tellFrom (m : Fin 6) (st : LineState) (s : State) : LineReach lineSet s (tellFrom m st s) := by
  unfold tellFrom
  refine lines_reformTelling _ (fun k u => ?_) _ s
  split
  · exact lines_postLine m st u
  · exact .refl _ u

theorem lines_startIgnition (n : Fin 3) (s : State) : LineReach lineSet s (startIgnition n s) := by
  unfold startIgnition
  simp only
  have h : LineReach lineSet s
      { s with fuel := { s.fuel with ignition := s.fuel.ignition.put n (ignitionLine s n) } } := .ofFuel _ rfl
  split
  · exact h.trans ((lines_onLine _ _ _ _).trans ((lines_setRate _ _ _).trans (lines_postLine _ _ _)))
  · exact h

theorem lines_linesFire (n : Fin 3) (s : State) : LineReach lineSet s (linesFire n s) :=
  (lines_reformBurner n s).trans (lines_endIgnition _ n _)

theorem lines_dropIgnition (p : Fin 512 → Prop) (m : Fin 6) (s : State) : LineReach p s (dropIgnition m s) := by
  unfold dropIgnition
  simp only
  split
  · exact lines_endIgnition p _ s
  · exact .refl p s

theorem lines_tripLine (m : Fin 6) (s : State) : LineReach lineSet s (tripLine m s) :=
  (lines_dropIgnition _ m s).trans <| (lines_onLine _ m _ _).trans ((lines_stopLine m _).trans
    ((lines_raise _ _ (lineSet_alarm m 0)).trans (lines_tellFrom m _ _)))

theorem lines_afterWindow (m : Fin 6) (c : Prop) [Decidable c] (g h : LineRec → LineRec) (s : State) :
    LineReach lineSet s (if c then tripLine m (onLine m g s) else onLine m h (onLine m g s)) := by
  split
  · exact (lines_onLine lineSet m g s).trans (lines_tripLine m _)
  · exact (lines_onLine lineSet m g s).trans (lines_onLine lineSet m h _)

theorem lines_judgeWindow (m : Fin 6) (s : State) : LineReach lineSet s (judgeWindow m s) := by
  have h1 := lines_captureEdges lineSet m s
  have h2 := lines_captureCycles lineSet m (captureEdges (.lineFeedback m) s).2
  exact (h1.trans h2).trans (lines_afterWindow m _ _ _ _)

theorem lines_untripLine (m : Fin 6) (s : State) : LineReach lineSet s (untripLine m s) :=
  (lines_onLine _ m _ s).trans ((lines_clear _ _ (lineSet_alarm m 0)).trans (lines_tellFrom m _ _))

/-! A burner that leaves FIRING or MAIN-TRIAL -/

/-- The alarms that a burner's operations change. -/
def burnerSet (n : Fin 3) (a : Fin 512) : Prop := burnerAlarms n a ∨ lineAlarms a ∨ a = 86 ∨ byLoss a

theorem burnerSet_of_line (n : Fin 3) (x : Fin 512) (h : lineSet x) : burnerSet n x := by
  rcases h with h | h
  · exact Or.inr (Or.inl h)
  · exact Or.inr (Or.inr (Or.inr h))

theorem burnerSet_alarm (n : Fin 3) (k : Fin 16) (x : Fin 512) (h : x = burnerAlarm n k ∨ byLoss x) : burnerSet n x := by
  rcases h with rfl | h
  · refine Or.inl ?_
    simp only [burnerAlarms, burnerAlarm]; omega
  · exact Or.inr (Or.inr (Or.inr h))

theorem lines_linesLeave (n : Fin 3) (s : State) : LineReach (burnerSet n) s (linesLeave n s) := by
  unfold linesLeave
  simp only
  have h : LineReach (burnerSet n) s
      (clear (burnerAlarm n 11) (clear (burnerAlarm n 10) (onDemand n (fun d =>
        { d with shortfall := 0, overfire := 0, shortCount := 0 }) (reformBurner n (endIgnition n s))))) :=
    (lines_endIgnition _ n s).trans (((lines_reformBurner n _).mono (burnerSet_of_line n)).trans
      ((lines_onDemand _ n _ _).trans ((lines_clear _ _ (burnerSet_alarm n 10)).trans
        (lines_clear _ _ (burnerSet_alarm n 11)))))
  split
  · refine h.trans (lines_clear 86 _ fun x hx => ?_)
    rcases hx with rfl | hx
    · exact Or.inr (Or.inr (Or.inl rfl))
    · exact Or.inr (Or.inr (Or.inr hx))
  · exact h

theorem lines_linesSee (n : Fin 3) (old st : BurnerState) (s : State) :
    LineReach (burnerSet n) s (linesSee n old st s) := by
  unfold linesSee
  split
  · exact (lines_startIgnition n s).mono (burnerSet_of_line n)
  · split
    · exact (lines_linesFire n s).mono (burnerSet_of_line n)
    · split
      · exact lines_linesLeave n s
      · exact (lines_reformBurner n s).mono (burnerSet_of_line n)

end Sys2Proof.Machine
end

