-- ==== Sys2Proof/Laws/BurnerFrames.lean ====
section
/-! SUPPORT. What the operations on a burner and on the kiln mode can change: the burner, the lines and their channels, the
mode record and what they report; and the record that an entry leaves. -/

namespace Sys2Proof.Machine

/-- From `s` to `t` only burner `n`, lines, the mode record and the reporting side changed, and of the alarms only those
`p` names. -/
structure BurnerReach (n : Fin 3) (p : Fin 512 → Prop) (s t : State) : Prop where
  frame : t = { s with burners := t.burners, fuel := t.fuel, channels := t.channels, kiln := t.kiln, rep := t.rep }
  others : ∀ k, k ≠ n → t.burners.nth k = s.burners.nth k
  fuel : fuelKept s t
  channels : channelsKept s t
  told : Reported p s.rep t.rep
  mode : modeGiven s t
  keeps : Keeps s.rep t.rep

/-- A line operation, seen from a burner. -/
theorem LineReach.burner {p : Fin 512 → Prop} {s t : State} (n : Fin 3) (h : LineReach p s t) : BurnerReach n p s t where
  frame := by have := h.frame; grind
  others k _ := by rw [h.burners]
  fuel := h.fuel
  channels := h.channels
  told := h.told.toReported
  mode := h.mode
  keeps := h.keeps

namespace BurnerReach
variable {n : Fin 3} {p q : Fin 512 → Prop} {s t u : State}

theorem refl (n : Fin 3) (p : Fin 512 → Prop) (s : State) : BurnerReach n p s s := (LineReach.refl p s).burner n

theorem settings (h : BurnerReach n p s t) : t.settings = s.settings := by rw [h.frame]
theorem clock (h : BurnerReach n p s t) : t.clock = s.clock := by rw [h.frame]
theorem points (h : BurnerReach n p s t) : t.points = s.points := by rw [h.frame]
theorem cooler (h : BurnerReach n p s t) : t.cooler = s.cooler := by rw [h.frame]
theorem link (h : BurnerReach n p s t) : t.link = s.link := by rw [h.frame]

theorem trans (h : BurnerReach n p s t) (k : BurnerReach n p t u) : BurnerReach n p s u where
  frame := by have := h.frame; have := k.frame; grind
  others i hi := (k.others i hi).trans (h.others i hi)
  fuel := by have := h.fuel; have := k.fuel; unfold fuelKept at *; grind
  channels c hc := (k.channels c (by rw [h.settings]; exact hc)).trans (h.channels c hc)
  told := h.told.trans k.told
  mode := h.mode.trans k.mode
  keeps := h.keeps.trans k.keeps

theorem mono (h : BurnerReach n p s t) (pq : ∀ a, p a → q a) : BurnerReach n q s t := { h with told := h.told.mono pq }

/-- A change of the mode record that keeps the mode held. -/
theorem ofKiln (n : Fin 3) (p : Fin 512 → Prop) (k : KilnCtl) (s : State) (h : k.mode = s.kiln.mode) :
    BurnerReach n p s { s with kiln := k } :=
  ⟨rfl, fun _ _ => rfl, rfl, fun _ _ => rfl, .refl _ _, Or.inl ⟨h, rfl⟩, .refl _⟩

/-- The Alarm Table given the mode, between line operations after a change of the mode record (R115). -/
theorem ofChange (n : Fin 3) {k : KilnCtl} (h : LineReach p { s with kiln := k } t) (w : LineReach p (giveMode t) u) :
    BurnerReach n p s u where
  frame := by have := h.frame; have := w.frame; grind [giveMode]
  others i _ := by rw [w.burners, giveMode_burners, h.burners]
  fuel := by have := h.fuel; have := w.fuel; unfold fuelKept giveMode at *; grind
  channels c hc := (w.channels c (by rw [giveMode_settings, h.settings]; exact hc)).trans (h.channels c hc)
  told := (h.told.toReported.trans ((Reported.refl p t.rep).of_mode _)).trans w.told.toReported
  mode := Or.inr (by rw [w.told.mode, w.kiln]; rfl)
  keeps := h.keeps.trans ((keeps_giveMode _ _).trans w.keeps)

/-- The frame of the obligations. -/
theorem burnerFrame (h : BurnerReach n (burnerSet n) s t) (k : kilnFollows s t) : burnerFrame n s t :=
  ⟨h.frame, h.others, h.fuel, h.channels, (h.told.keeps h.mode).1, (h.told.keeps h.mode).2, k⟩

end BurnerReach

/-! The kiln mode -/

/-- A change of mode leaves every burner. -/
structure ModeReach (s t : State) : Prop where
  reach : ∀ n, BurnerReach n lineSet s t
  burners : t.burners = s.burners

namespace ModeReach
variable {s t u : State}

theorem refl (s : State) : ModeReach s s := ⟨fun n => .refl n _ s, rfl⟩

theorem trans (h : ModeReach s t) (k : ModeReach t u) : ModeReach s u :=
  ⟨fun n => (h.reach n).trans (k.reach n), k.burners.trans h.burners⟩

theorem ofLines (h : LineReach lineSet s t) : ModeReach s t := ⟨fun n => h.burner n, h.burners⟩

end ModeReach

theorem lines_holdMode (md : KilnMode) (s : State) :
    LineReach lineSet { s with kiln := { mode := md, pendingShutdown := Tab.fill false } } (holdMode md s) :=
  lines_post (.mode md) (modeClass md) _ rfl fun _ hx => Or.inr hx

theorem lines_releaseHeld (s : State) : LineReach lineSet s (onRep releaseHeld s) :=
  .ofRep _ ((told_releaseHeld _ _).mono fun _ hx => Or.inr hx) (keeps_releaseHeld _ _)

theorem mode_enterMode (md : KilnMode) (s : State) : ModeReach s (enterMode md s) where
  reach n := .ofChange n ((lines_holdMode md s).trans (lines_reformAll _)) (lines_releaseHeld _)
  burners := by
    unfold enterMode afterMode
    rw [(lines_releaseHeld _).burners, giveMode_burners, (lines_reformAll _).burners]
    rfl

theorem mode_kilnSees (n : Fin 3) (st : BurnerState) (s : State) : ModeReach s (kilnSees n st s) := by
  have hd : ModeReach s (dropPending n s) := ⟨fun k => .ofKiln k _ _ s rfl, rfl⟩
  unfold kilnSees
  split
  · exact mode_enterMode _ s
  · split
    · simp only
      split
      · exact hd.trans (mode_enterMode _ _)
      · exact hd
    · exact .refl s

@[simp] theorem holdMode_kiln (md : KilnMode) (s : State) :
    (holdMode md s).kiln = { mode := md, pendingShutdown := Tab.fill false } := rfl

@[simp] theorem afterMode_kiln (s : State) : (afterMode s).kiln = s.kiln := by
  unfold afterMode
  rw [(lines_releaseHeld _).kiln, giveMode_kiln, (lines_reformAll s).kiln]

/-- After a mode change the Alarm Table has the mode held (R115 step 5). -/
@[simp] theorem afterMode_given (s : State) : (afterMode s).rep.alarms.mode = s.kiln.mode := by
  unfold afterMode
  rw [(lines_releaseHeld _).told.mode, giveMode_rep, (lines_reformAll s).kiln]

@[simp] theorem enterMode_kiln (md : KilnMode) (s : State) :
    (enterMode md s).kiln = { mode := md, pendingShutdown := Tab.fill false } := by
  unfold enterMode
  rw [afterMode_kiln, holdMode_kiln]

/-- The mode record after burner `n` changed to state `st` (R117, R118). -/
def kilnAfter (n : Fin 3) (st : BurnerState) (k : KilnCtl) : KilnCtl :=
  if n = 0 ∧ st = .lockedOut ∧ k.mode = .production then { mode := .upset, pendingShutdown := Tab.fill false }
  else if k.mode = .shutdown ∧ st.atRest ∧ k.pendingShutdown.nth n then
    if (k.pendingShutdown.put n false).count id == 0 then { mode := .off, pendingShutdown := Tab.fill false }
    else { k with pendingShutdown := k.pendingShutdown.put n false }
  else k

/-- What a burner's change does to the mode record. -/
theorem kilnSees_kiln (n : Fin 3) (st : BurnerState) (s : State) : (kilnSees n st s).kiln = kilnAfter n st s.kiln := by
  unfold kilnSees kilnAfter
  by_cases h1 : n = 0 ∧ st = .lockedOut ∧ s.kiln.mode = .production
  · rw [if_pos h1, if_pos h1, enterMode_kiln]
  · rw [if_neg h1, if_neg h1]
    by_cases h2 : s.kiln.mode = .shutdown ∧ st.atRest ∧ s.kiln.pendingShutdown.nth n
    · rw [if_pos h2, if_pos h2]
      have e : noPending (dropPending n s) = ((s.kiln.pendingShutdown.put n false).count id == 0) := rfl
      simp only [e]
      by_cases h3 : ((s.kiln.pendingShutdown.put n false).count id == 0) = true
      · rw [if_pos h3, if_pos h3, enterMode_kiln]
      · rw [if_neg h3, if_neg h3]
        rfl
    · rw [if_neg h2, if_neg h2]

theorem burner_ofMode {n : Fin 3} {s t : State} (h : ModeReach s t) : BurnerReach n (burnerSet n) s t :=
  (h.reach n).mono (burnerSet_of_line n)

/-! Entries -/

theorem burner_onBurner (n : Fin 3) (p : Fin 512 → Prop) (f : BurnerRec → BurnerRec) (s : State) :
    BurnerReach n p s (onBurner n f s) where
  frame := rfl
  others _ hk := by simp [Tab.nth_upd_ne _ hk]
  fuel := rfl
  channels _ _ := rfl
  told := .refl _ _
  mode := Or.inl ⟨rfl, rfl⟩
  keeps := .refl _

theorem lines_raiseCause (n : Fin 3) (cause : LockoutCause) (s : State) :
    LineReach (burnerSet n) s (raiseCause n cause s) := by
  unfold raiseCause
  split
  · exact lines_raise _ s (burnerSet_alarm n _)
  · exact .refl _ s

theorem lines_endConditions (n : Fin 3) (s : State) : LineReach (burnerSet n) s (endConditions n s) :=
  (lines_clear _ s (burnerSet_alarm n 5)).trans (lines_clear _ _ (burnerSet_alarm n 12))

theorem burnerSet_loss (n : Fin 3) (x : Fin 512) (h : byLoss x) : burnerSet n x := Or.inr (Or.inr (Or.inr h))

theorem burner_enterBurner (n : Fin 3) (st : BurnerState) (s : State) :
    BurnerReach n (burnerSet n) s (enterBurner n st s) :=
  (burner_onBurner n _ _ s).trans ((((lines_post _ _ _ rfl (burnerSet_loss n)).trans
    ((lines_endConditions n _).trans (lines_linesSee n _ st _))).burner n).trans
      (burner_ofMode (mode_kilnSees n st _)))

/-- The burner records after an entry. -/
@[simp] theorem enterBurner_burners (n : Fin 3) (st : BurnerState) (s : State) :
    (enterBurner n st s).burners = s.burners.upd n (enterRec (burnerCfg s n).timing st) := by
  unfold enterBurner
  simp only
  rw [(mode_kilnSees n st _).burners, (lines_linesSee n _ st _).burners, (lines_endConditions n _).burners]
  rfl

/-- What an entry does to the mode record. -/
theorem enterBurner_kiln (n : Fin 3) (st : BurnerState) (s : State) :
    (enterBurner n st s).kiln = kilnAfter n st s.kiln := by
  unfold enterBurner
  simp only
  rw [kilnSees_kiln, (lines_linesSee n _ st _).kiln, (lines_endConditions n _).kiln]
  rfl

/-- An entry into LOCKED-OUT from another state, up to the lines. -/
theorem lockOut_of_ne (n : Fin 3) (cause : LockoutCause) (s : State) (h : burnerState s n ≠ .lockedOut) :
    lockOut n cause s =
      kilnSees n .lockedOut (linesSee n (burnerState s n) .lockedOut (endConditions n (raiseCause n cause
        (post (.burner n .lockedOut) .urgent (feed (countLockout n)
          (onBurner n (fun b => { enterRec (burnerCfg s n).timing .lockedOut b with
            cause := cause, lockoutTime := s.clock }) s)))))) := by
  unfold lockOut
  simp only [if_neg h]

@[simp] theorem lockOut_of_lockedOut (n : Fin 3) (cause : LockoutCause) (s : State) (h : burnerState s n = .lockedOut) :
    lockOut n cause s = s := by
  unfold lockOut
  simp only [if_pos h]

theorem burner_lockOut (n : Fin 3) (cause : LockoutCause) (s : State) :
    BurnerReach n (burnerSet n) s (lockOut n cause s) := by
  by_cases h : burnerState s n = .lockedOut
  · rw [lockOut_of_lockedOut n cause s h]
    exact .refl n _ s
  · rw [lockOut_of_ne n cause s h]
    exact (burner_onBurner n _ _ s).trans ((((lines_feed _ _ _).trans ((lines_post _ _ _ rfl (burnerSet_loss n)).trans
      ((lines_raiseCause n cause _).trans ((lines_endConditions n _).trans (lines_linesSee n _ _ _))))).burner n).trans
        (burner_ofMode (mode_kilnSees n _ _)))

/-- The burner records after an entry into LOCKED-OUT. -/
theorem lockOut_burners (n : Fin 3) (cause : LockoutCause) (s : State) (h : burnerState s n ≠ .lockedOut) :
    (lockOut n cause s).burners = s.burners.upd n fun b =>
      { enterRec (burnerCfg s n).timing .lockedOut b with cause := cause, lockoutTime := s.clock } := by
  rw [lockOut_of_ne n cause s h, (mode_kilnSees n _ _).burners, (lines_linesSee n _ _ _).burners,
    (lines_endConditions n _).burners, (lines_raiseCause n cause _).burners]
  rfl

/-- What an entry into LOCKED-OUT does to the mode record. -/
theorem lockOut_kiln (n : Fin 3) (cause : LockoutCause) (s : State) (h : burnerState s n ≠ .lockedOut) :
    (lockOut n cause s).kiln = kilnAfter n .lockedOut s.kiln := by
  rw [lockOut_of_ne n cause s h, kilnSees_kiln, (lines_linesSee n _ _ _).kiln, (lines_endConditions n _).kiln,
    (lines_raiseCause n cause _).kiln]
  rfl

theorem burner_endPostPurge (n : Fin 3) (s : State) : BurnerReach n (burnerSet n) s (endPostPurge n s) := by
  unfold endPostPurge
  split
  · exact burner_lockOut n _ s
  · exact burner_enterBurner n _ s

theorem burner_enterStopping (n : Fin 3) (s : State) : BurnerReach n (burnerSet n) s (enterStopping n s) := by
  unfold enterStopping
  simp only
  split
  · exact (burner_enterBurner n _ s).trans (burner_endPostPurge n _)
  · exact burner_enterBurner n _ s

theorem burner_stopBurner (n : Fin 3) (s : State) : BurnerReach n (burnerSet n) s (stopBurner n s) := by
  unfold stopBurner
  split
  · exact burner_enterBurner n _ s
  · exact burner_enterBurner n _ s
  · exact burner_enterStopping n s
  · exact burner_enterStopping n s
  all_goals exact .refl n _ s

/-! Air permissive -/

theorem burner_raise (n : Fin 3) (k : Fin 16) (s : State) : BurnerReach n (burnerSet n) s (raise (burnerAlarm n k) s) :=
  (lines_raise _ s (burnerSet_alarm n k)).burner n

theorem burner_clear (n : Fin 3) (k : Fin 16) (s : State) : BurnerReach n (burnerSet n) s (clear (burnerAlarm n k) s) :=
  (lines_clear _ s (burnerSet_alarm n k)).burner n

theorem burner_purgeAir (n : Fin 3) (permitted : Bool) (s : State) :
    BurnerReach n (burnerSet n) s (purgeAir n permitted s) :=
  (burner_onBurner n _ _ s).trans ((lines_follow _ _ _ (burnerSet_alarm n 12)).burner n)

theorem burner_startGrace (n : Fin 3) (s : State) : BurnerReach n (burnerSet n) s (startGrace n s) := by
  unfold startGrace
  simp only
  split
  · exact (burner_onBurner n _ _ s).trans ((burner_raise n 5 _).trans (burner_lockOut n _ _))
  · exact (burner_onBurner n _ _ s).trans (burner_raise n 5 _)

theorem burner_airChanged (n : Fin 3) (old new : AirState) (s : State) :
    BurnerReach n (burnerSet n) s (airChanged n old new s) := by
  unfold airChanged
  split
  · split
    · exact burner_purgeAir n _ s
    · split
      · exact burner_purgeAir n _ s
      · exact .refl n _ s
  · split
    · exact .refl n _ s
    · exact burner_lockOut n _ s
  · split
    · exact .refl n _ s
    · exact burner_lockOut n _ s
  · split
    · exact (burner_onBurner n _ _ s).trans (burner_clear n 5 _)
    · exact burner_startGrace n s
    · exact burner_lockOut n _ s
  all_goals exact .refl n _ s

theorem burner_reformAir (n : Fin 3) (s : State) : BurnerReach n (burnerSet n) s (reformAir n s) := by
  unfold reformAir
  simp only
  split
  · exact .refl n _ s
  · exact (burner_onBurner n _ _ s).trans (burner_airChanged n _ _ _)

/-! Flame windows -/

theorem burner_faultAlarm (n : Fin 3) (k : Fin 16) (old new : Verdict) (s : State) :
    BurnerReach n (burnerSet n) s (faultAlarm (burnerAlarm n k) old new s) := by
  unfold faultAlarm
  split
  · split
    · exact .refl n _ s
    · exact burner_raise n k s
  · exact burner_clear n k s

theorem burner_flameActs (n : Fin 3) (judged : Bool) (s : State) :
    BurnerReach n (burnerSet n) s (flameActs n judged s) := by
  unfold flameActs
  simp only
  split <;> first
    | exact .refl n _ s
    | (split <;> first
        | exact burner_lockOut n _ s
        | exact burner_enterBurner n _ s
        | exact .refl n _ s)

theorem burner_flameWindow (n : Fin 3) (s : State) : BurnerReach n (burnerSet n) s (flameWindow n s) := by
  have h1 := burner_onBurner n (burnerSet n) (fun _ => { judgeWindows (s.burners.nth n) with unjudged := false }) s
  have h2 (u : State) (c : Prop) [Decidable c] :
      BurnerReach n (burnerSet n) u (if c then clear (burnerAlarm n 9) u else u) := by
    split
    · exact burner_clear n 9 u
    · exact .refl n _ u
  exact (((h1.trans (burner_faultAlarm n 7 _ _ _)).trans (burner_faultAlarm n 8 _ _ _)).trans (h2 _ _)).trans
    (burner_flameActs n _ _)

end Sys2Proof.Machine
end

