-- ==== Sys2Proof/Laws/Characters.lean ====
section
/-! SUPPORT. Characters of the link: a receiver reads back every character and takes none with a low stop bit, and the
characters of some bytes carry those bytes (R166, R168). -/

namespace Sys2Proof.Machine

@[simp] theorem character_length (b : Byte) : (character b).length = 10 := rfl

theorem readCharacter_ofFin : ∀ n : Fin 256, readCharacter (character (BitVec.ofFin n)) = some (BitVec.ofFin n) := by
  decide +kernel

/-- A character read back is its byte. -/
@[simp] theorem readCharacter_character (b : Byte) : readCharacter (character b) = some b := readCharacter_ofFin b.toFin

/-- A character whose last level is low is not taken. -/
theorem readCharacter_lowStop {levels : List Bool} (h : levels.getLast? = some false) : readCharacter levels = none := by
  unfold readCharacter
  split
  · simp at h
  · rfl

/-- The characters of some bytes carry those bytes. -/
theorem readCharacters (bytes : List Byte) : (bytes.map character).mapM readCharacter = some bytes := by
  induction bytes with
  | nil => rfl
  | cons b bytes ih => simp [List.mapM_cons, ih]

/-- TXD is high while no reply is being sent. -/
theorem txdLevel_idle {s : State} (h : s.link.reply = none) (k : Nat) : txdLevel s k = true := by
  simp [txdLevel, txdLevels, sentFrame, h]

end Sys2Proof.Machine
end

