-- ==== Sys2Proof/Laws/CoolerFrames.lean ====
section
/-! SUPPORT. What the operations on the cooler can change: the cooler record, channels, lines and the mode record by a trip,
and what they report. -/

namespace Sys2Proof.Machine

/-- From `s` to `t` only the cooler (but for its period timer), channels, lines, the mode record and the reporting side
changed. -/
structure CoolReach (s t : State) : Prop where
  frame : t = { s with cooler := t.cooler, channels := t.channels, fuel := t.fuel, kiln := t.kiln, rep := t.rep }
  timer : t.cooler.periodLeft = s.cooler.periodLeft ∧ t.cooler.periodLength = s.cooler.periodLength
  fuel : fuelKept s t
  told : Reported (fun _ => True) s.rep t.rep
  mode : modeGiven s t
  keeps : Keeps s.rep t.rep

theorem LineReach.cool {p : Fin 512 → Prop} {s t : State} (h : LineReach p s t) : CoolReach s t where
  frame := by rw [h.frame]
  timer := by rw [h.cooler]; exact ⟨rfl, rfl⟩
  fuel := h.fuel
  told := (h.told.mono fun _ _ => trivial).toReported
  mode := h.mode
  keeps := h.keeps

theorem ModeReach.cool {s t : State} (h : ModeReach s t) : CoolReach s t where
  frame := by have := (h.reach 0).frame; rw [h.burners] at this; rw [this]
  timer := by rw [(h.reach 0).cooler]; exact ⟨rfl, rfl⟩
  fuel := (h.reach 0).fuel
  told := (h.reach 0).told.mono fun _ _ => trivial
  mode := (h.reach 0).mode
  keeps := (h.reach 0).keeps

namespace CoolReach
variable {s t u : State}

theorem refl (s : State) : CoolReach s s := (LineReach.refl (fun _ => True) s).cool

theorem settings (h : CoolReach s t) : t.settings = s.settings := by rw [h.frame]
theorem clock (h : CoolReach s t) : t.clock = s.clock := by rw [h.frame]
theorem points (h : CoolReach s t) : t.points = s.points := by rw [h.frame]
theorem burners (h : CoolReach s t) : t.burners = s.burners := by rw [h.frame]
theorem link (h : CoolReach s t) : t.link = s.link := by rw [h.frame]

theorem trans (h : CoolReach s t) (k : CoolReach t u) : CoolReach s u where
  frame := by have := h.frame; have := k.frame; grind
  timer := ⟨k.timer.1.trans h.timer.1, k.timer.2.trans h.timer.2⟩
  fuel := by have := h.fuel; have := k.fuel; unfold fuelKept at *; grind
  told := h.told.trans k.told
  mode := h.mode.trans k.mode
  keeps := h.keeps.trans k.keeps

theorem foldl {α : Type} (f : State → α → State) (hf : ∀ s x, CoolReach s (f s x)) (xs : List α) (s : State) :
    CoolReach s (xs.foldl f s) := by
  induction xs generalizing s with
  | nil => exact refl s
  | cons x xs ih => exact (hf s x).trans (ih _)

end CoolReach

/-! Shared operations -/

/-- A change of the cooler that keeps its period timer. -/
theorem cool_onCooler (f : CoolerCtl → CoolerCtl) (s : State)
    (h : (f s.cooler).periodLeft = s.cooler.periodLeft ∧ (f s.cooler).periodLength = s.cooler.periodLength) :
    CoolReach s (onCooler f s) :=
  ⟨rfl, h, rfl, .refl _ _, Or.inl ⟨rfl, rfl⟩, .refl _⟩

theorem cool_onGrate (n : Fin 3) (f : GrateRec → GrateRec) (s : State) : CoolReach s (onGrate n f s) :=
  cool_onCooler _ s ⟨rfl, rfl⟩

theorem cool_onRole (r : Role) (f : ChannelCfg → ChannelRec → ChannelRec) (s : State) : CoolReach s (onRole r f s) := by
  unfold onRole
  split <;> exact ⟨rfl, ⟨rfl, rfl⟩, rfl, .refl _ _, Or.inl ⟨rfl, rfl⟩, .refl _⟩

theorem cool_captureEdges (r : Role) (s : State) : CoolReach s (captureEdges r s).2 := by
  unfold captureEdges
  split <;> exact ⟨rfl, ⟨rfl, rfl⟩, rfl, .refl _ _, Or.inl ⟨rfl, rfl⟩, .refl _⟩

theorem cool_captureCycles (r : Role) (s : State) : CoolReach s (captureCycles r s).2 := by
  unfold captureCycles
  split <;> exact ⟨rfl, ⟨rfl, rfl⟩, rfl, .refl _ _, Or.inl ⟨rfl, rfl⟩, .refl _⟩

theorem cool_raise (a : Fin 512) (s : State) : CoolReach s (raise a s) :=
  (lines_raise (p := fun _ => True) a s fun _ _ => trivial).cool

theorem cool_clear (a : Fin 512) (s : State) : CoolReach s (clear a s) :=
  (lines_clear (p := fun _ => True) a s fun _ _ => trivial).cool

theorem cool_post (b : NoticeBody) (cls : NoticeClass) (s : State) (hb : noticeAlarm b = none) :
    CoolReach s (post b cls s) := (lines_post (p := fun _ => True) b cls s hb fun _ _ => trivial).cool

theorem cool_feed (f : ShiftRecord → ShiftRecord) (s : State) : CoolReach s (feed f s) :=
  (lines_feed (fun _ => True) f s).cool

theorem cool_formCutback (s : State) : CoolReach s (formCutback s) := cool_onCooler _ s ⟨rfl, rfl⟩

/-- After a re-forming the cutback request stands as R107 gives. -/
theorem formCutback_agrees (s : State) : (formCutback s).cooler.cutback = cutbackOf s.cooler := rfl

/-! Grates -/

theorem cool_driveGrate (n : Fin 3) (s : State) : CoolReach s (driveGrate n s) :=
  (cool_onRole _ _ s).trans (cool_onGrate n _ _)

theorem cool_formSpeed (s : State) (n : Fin 3) : CoolReach s (formSpeed s n) := by
  unfold formSpeed
  simp only
  split
  · exact (cool_onGrate n _ s).trans (cool_driveGrate n _)
  · exact cool_onGrate n _ s

theorem cool_startGrate (n : Fin 3) (s : State) : CoolReach s (startGrate n s) :=
  (cool_onGrate n _ s).trans (cool_formSpeed _ n)

theorem cool_haltGrate (n : Fin 3) (s : State) : CoolReach s (haltGrate n s) :=
  (cool_onRole _ _ s).trans (cool_onGrate n _ _)

theorem cool_stopGrate (s : State) (n : Fin 3) : CoolReach s (stopGrate s n) := by
  unfold stopGrate
  simp only
  split
  · exact (cool_haltGrate n s).trans (cool_onGrate n _ _)
  · exact cool_onGrate n _ s

theorem cool_stopRunning (s : State) (n : Fin 3) : CoolReach s (stopRunning s n) := by
  unfold stopRunning
  split
  · exact cool_stopGrate s n
  · exact .refl s

/-! Fans -/

theorem cool_handFan (n : Fin 6) (s : State) : CoolReach s (handFan n s) := cool_onRole _ _ s

theorem cool_applyFan (n : Fin 6) (s : State) : CoolReach s (applyFan n s) :=
  (cool_onCooler (fun c => { c with fans := c.fans.upd n fun f => { f with applied := appliedOf s n } }) s
    ⟨rfl, rfl⟩).trans (cool_handFan n _)

theorem cool_reformFans (s : State) : CoolReach s (reformFans s) :=
  .foldl _ (fun s n => by
    split
    · exact .refl s
    · exact cool_applyFan n s) fanList s

theorem cool_handFans (s : State) : CoolReach s (handFans s) := .foldl _ (fun s n => cool_applyFan n s) fanList s

/-! Stall, trip, pile-up -/

theorem cool_tripCooler (s : State) : CoolReach s (tripCooler s) := by
  have h1 := CoolReach.foldl stopRunning cool_stopRunning grateList s
  have h2 := h1.trans (cool_onCooler (fun c => { c with pileCount := 0, state := .tripped }) _ ⟨rfl, rfl⟩)
  have h3 := h2.trans ((cool_post (.cooler .tripped) (coolerClass .tripped) _ rfl).trans
    ((cool_clear 80 _).trans ((cool_clear 85 _).trans (cool_raise 84 _))))
  have h4 := h3.trans ((cool_feed countCoolerTrip _).trans (cool_formCutback _))
  unfold tripCooler
  simp only
  split
  · exact h4.trans (mode_enterMode _ _).cool
  · exact h4

theorem cool_stallGrate (n : Fin 3) (s : State) : CoolReach s (stallGrate n s) := by
  have h := (cool_haltGrate n s).trans ((cool_onGrate n (fun g => { g with state := .stalled, stalls := 0 }) _).trans
    ((cool_raise (stallAlarm n) _).trans (cool_formCutback _)))
  unfold stallGrate
  simp only
  split
  · exact h.trans (cool_tripCooler _)
  · exact h

theorem cool_checkGrate (period : Nat) (s : State) (n : Fin 3) : CoolReach s (checkGrate period s n) := by
  have h (e k : Nat) := cool_onGrate n (fun g => { g with expected := e, stalls := k }) s
  unfold checkGrate
  simp only
  split
  · split
    · exact (h _ _).trans (cool_stallGrate n _)
    · exact h _ _
  · exact .refl s

theorem cool_captureGrate (s : State) (n : Fin 3) : CoolReach s (captureGrate s n) := by
  have h2 (u : State) : CoolReach u (if assigned u (.grateDrive n) then
      let x := captureCycles (.grateDrive n) u
      onGrate n (fun g => { g with cycles := x.1 }) x.2 else u) := by
    split
    · exact (cool_captureCycles _ u).trans (cool_onGrate n _ _)
    · exact .refl u
  have h1 : CoolReach s (if assigned s (.grateFeedback n) then
      let x := captureEdges (.grateFeedback n) s
      feed (countStrokes n x.1) (onGrate n (fun g => { g with strokes := x.1 }) x.2) else s) := by
    split
    · exact (cool_captureEdges _ s).trans ((cool_onGrate n _ _).trans (cool_feed _ _))
    · exact .refl s
  exact h1.trans (h2 _)

theorem cool_validateWindows (s : State) : CoolReach s (validateWindows s) := cool_onCooler _ s ⟨rfl, rfl⟩

theorem cool_readPressure (s : State) : CoolReach s (readPressure s) := by
  unfold readPressure
  split
  · exact (cool_onCooler _ s ⟨rfl, rfl⟩).trans (cool_clear 85 _)
  · exact (cool_onCooler _ s ⟨rfl, rfl⟩).trans (cool_raise 85 _)

theorem cool_enterPileUp (s : State) : CoolReach s (enterPileUp s) :=
  (cool_onCooler _ s ⟨rfl, rfl⟩).trans ((cool_post _ _ _ rfl).trans ((cool_raise 80 _).trans (cool_formCutback _)))

theorem cool_leavePileUp (s : State) : CoolReach s (leavePileUp s) :=
  (cool_onCooler _ s ⟨rfl, rfl⟩).trans ((cool_post _ _ _ rfl).trans ((cool_clear 80 _).trans (cool_formCutback _)))

theorem cool_countPile (s : State) : CoolReach s (countPile s) := by
  have h (k : Nat) := cool_onCooler (fun c => { c with pileCount := k }) s ⟨rfl, rfl⟩
  have turn (u : State) (c d : Prop) [Decidable c] [Decidable d] :
      CoolReach u (if c then (if d then leavePileUp u else enterPileUp u) else u) := by
    split
    · split
      · exact cool_leavePileUp u
      · exact cool_enterPileUp u
    · exact .refl u
  unfold countPile
  split
  · exact (h _).trans (turn _ _ _)
  · exact .refl s

theorem cool_setSpeeds (s : State) : CoolReach s (setSpeeds s) :=
  (cool_onCooler (fun c => { c with s0 := s0Next s }) s ⟨rfl, rfl⟩).trans
    (.foldl formSpeed cool_formSpeed grateList _)

theorem cool_stepFans (s : State) : CoolReach s (stepFans s) :=
  (cool_onCooler (fun c => { c with boost := boostNext s }) s ⟨rfl, rfl⟩).trans (cool_handFans _)

theorem cool_runBed (s : State) : CoolReach s (runBed s) := by
  unfold runBed
  split
  · exact (cool_readPressure s).trans ((cool_countPile _).trans (cool_setSpeeds _))
  · exact .refl s

end Sys2Proof.Machine
end

