-- ==== Sys2Proof/Laws/LineRecords.lean ====
section
/-! SUPPORT. The line records that the operations on lines leave: the line of the operation, field by field, and every other
line as it was. -/

namespace Sys2Proof.Machine

/-! Operations that leave every line record -/

theorem lineRec_of_fuel {s t : State} (h : t.fuel = s.fuel) (k : Fin 6) : lineRec t k = lineRec s k := by
  unfold lineRec
  rw [h]

@[simp] theorem raise_line (a : Fin 512) (s : State) (k : Fin 6) : lineRec (raise a s) k = lineRec s k := rfl
@[simp] theorem clear_line (a : Fin 512) (s : State) (k : Fin 6) : lineRec (clear a s) k = lineRec s k := rfl
@[simp] theorem post_line (b : NoticeBody) (cls : NoticeClass) (s : State) (k : Fin 6) :
    lineRec (post b cls s) k = lineRec s k := rfl
@[simp] theorem feed_line (f : ShiftRecord → ShiftRecord) (s : State) (k : Fin 6) :
    lineRec (feed f s) k = lineRec s k := rfl

@[simp] theorem follow_line (a : Fin 512) (c : Bool) (s : State) (k : Fin 6) : lineRec (follow a c s) k = lineRec s k := by
  unfold follow
  split <;> rfl

@[simp] theorem onRole_line (r : Role) (f : ChannelCfg → ChannelRec → ChannelRec) (s : State) (k : Fin 6) :
    lineRec (onRole r f s) k = lineRec s k := by
  unfold onRole
  split <;> rfl

@[simp] theorem captureEdges_line (r : Role) (s : State) (k : Fin 6) :
    lineRec (captureEdges r s).2 k = lineRec s k := by
  unfold captureEdges
  split <;> rfl

@[simp] theorem captureCycles_line (r : Role) (s : State) (k : Fin 6) :
    lineRec (captureCycles r s).2 k = lineRec s k := by
  unfold captureCycles
  split <;> rfl

@[simp] theorem postLine_line (m : Fin 6) (st : LineState) (s : State) (k : Fin 6) :
    lineRec (postLine m st s) k = lineRec s k := by
  unfold postLine
  split <;> rfl

@[simp] theorem altSupportAlarm_line (m : Fin 6) (s : State) (k : Fin 6) :
    lineRec (altSupportAlarm m s) k = lineRec s k := by
  unfold altSupportAlarm
  simp only
  split
  · split <;> rfl
  · rfl

/-! One line -/

theorem onLine_line (m k : Fin 6) (f : LineRec → LineRec) (s : State) :
    lineRec (onLine m f s) k = if k = m then f (lineRec s m) else lineRec s k := by
  unfold lineRec onLine
  simp only [Tab.nth_upd]
  split
  · rename_i h
    rw [h]
  · rfl

@[simp] theorem onLine_line_self (m : Fin 6) (f : LineRec → LineRec) (s : State) :
    lineRec (onLine m f s) m = f (lineRec s m) := by simp [onLine_line]

theorem onLine_line_ne {m k : Fin 6} (h : k ≠ m) (f : LineRec → LineRec) (s : State) :
    lineRec (onLine m f s) k = lineRec s k := by simp [onLine_line, h]

/-- Every other line is as it was. -/
def OthersKept (m : Fin 6) (s t : State) : Prop := ∀ k, k ≠ m → lineRec t k = lineRec s k

theorem OthersKept.trans {m : Fin 6} {s t u : State} (h : OthersKept m s t) (k : OthersKept m t u) : OthersKept m s u :=
  fun i hi => (k i hi).trans (h i hi)

theorem others_onLine (m : Fin 6) (f : LineRec → LineRec) (s : State) : OthersKept m s (onLine m f s) :=
  fun _ h => onLine_line_ne h f s

/-- The hand-over of a rate changes the drive limit of the line's record alone. -/
theorem handRate_line (m : Fin 6) (s : State) :
    (∃ mk, lineRec (handRate m s) m = { lineRec s m with driveLimit := mk }) ∧ OthersKept m s (handRate m s) := by
  unfold handRate
  refine ⟨⟨_, by rw [follow_line, onLine_line_self, onRole_line]⟩, fun k hk => ?_⟩
  rw [follow_line, onLine_line_ne hk, onRole_line]

/-- A set rate stands in the line's record. -/
theorem setRate_line (m : Fin 6) (c : Nat) (s : State) :
    (∃ mk, lineRec (setRate m c s) m = { lineRec s m with rate := c, driveLimit := mk }) ∧
      OthersKept m s (setRate m c s) := by
  obtain ⟨⟨mk, h⟩, ho⟩ := handRate_line m (onLine m (fun x => { x with rate := c }) s)
  exact ⟨⟨mk, by unfold setRate; rw [h, onLine_line_self]⟩, (others_onLine m _ s).trans ho⟩

/-- A stopped line has rate 0, no window and no fault counted. -/
theorem stopLine_line (m : Fin 6) (s : State) :
    (∃ mk, lineRec (stopLine m s) m = { lineRec s m with window := none, faults := 0, rate := 0, driveLimit := mk }) ∧
      OthersKept m s (stopLine m s) := by
  obtain ⟨⟨mk, h⟩, ho⟩ := setRate_line m 0 (onLine m (fun x => { x with window := none, faults := 0 }) s)
  exact ⟨⟨mk, by unfold stopLine; rw [clear_line, h, onLine_line_self]⟩, (others_onLine m _ s).trans ho⟩

/-- A started window changes window and fault counter of its line alone. -/
theorem startWindow_line (m : Fin 6) (s : State) :
    (∃ w n, lineRec (startWindow m s) m = { lineRec s m with window := w, faults := n }) ∧
      OthersKept m s (startWindow m s) := by
  unfold startWindow
  split
  · refine ⟨⟨_, _, by rw [onLine_line_self, captureCycles_line, captureEdges_line]⟩, fun k hk => ?_⟩
    rw [onLine_line_ne hk, captureCycles_line, captureEdges_line]
  · exact ⟨⟨_, _, rfl⟩, fun _ _ => rfl⟩

/-! Actual state -/

theorem enterLine_eq (m : Fin 6) (st : LineState) (s : State) (h : (lineRec s m).actual ≠ st) :
    enterLine m st s =
      postLine m st (enterChange m (lineRec s m).actual st (onLine m (fun x => { x with actual := st }) s)) := by
  unfold enterLine
  simp only [if_neg h]

theorem enterLine_same (m : Fin 6) (st : LineState) (s : State) (h : (lineRec s m).actual = st) :
    enterLine m st s = s := by
  unfold enterLine
  simp only [if_pos h]

theorem enterChange_line (m : Fin 6) (old st : LineState) (s : State) :
    (lineRec (enterChange m old st s) m).actual = (lineRec s m).actual ∧
      (lineRec (enterChange m old st s) m).requested = (lineRec s m).requested ∧
      (lineRec (enterChange m old st s) m).manualRate = (lineRec s m).manualRate ∧
      (st = .starting → (lineRec (enterChange m old st s) m).rate = (lineCfg s m).rmin) ∧
      (st.runs = false → old.runs = true → (lineRec (enterChange m old st s) m).rate = 0) ∧
      (st.runs = false → old.runs = false → (lineRec (enterChange m old st s) m).rate = (lineRec s m).rate) ∧
      OthersKept m s (enterChange m old st s) := by
  obtain ⟨⟨a, ha⟩, ho⟩ := setRate_line m (lineCfg s m).rmin s
  obtain ⟨⟨b, hb⟩, hp⟩ := stopLine_line m s
  obtain ⟨⟨w, n, hw⟩, hq⟩ := startWindow_line m s
  unfold enterChange
  cases st <;> simp only [LineState.runs] <;> (try split) <;> simp_all [OthersKept]

/-- An entry leaves the line in the state entered, with its requests, and every other line as it was. -/
theorem enterLine_line (m : Fin 6) (st : LineState) (s : State) :
    (lineRec (enterLine m st s) m).actual = st ∧
      (lineRec (enterLine m st s) m).requested = (lineRec s m).requested ∧
      (lineRec (enterLine m st s) m).manualRate = (lineRec s m).manualRate ∧
      (st = .starting → (lineRec s m).actual ≠ .starting → (lineRec (enterLine m st s) m).rate = (lineCfg s m).rmin) ∧
      (st.runs = false → ((lineRec s m).actual.runs = false → (lineRec s m).rate = 0) →
        (lineRec (enterLine m st s) m).rate = 0) ∧
      OthersKept m s (enterLine m st s) := by
  by_cases h : (lineRec s m).actual = st
  · rw [enterLine_same m st s h]
    refine ⟨h, rfl, rfl, fun e n => absurd (h.trans e) n, fun r z => z (h ▸ r), fun _ _ => rfl⟩
  · rw [enterLine_eq m st s h]
    obtain ⟨c1, c2, c3, c4, c5, c6, c7⟩ :=
      enterChange_line m (lineRec s m).actual st (onLine m (fun x => { x with actual := st }) s)
    simp only [postLine_line]
    rw [onLine_line_self] at c1 c2 c3 c6
    refine ⟨c1, c2, c3, fun e _ => c4 e, fun r z => ?_, fun k hk => ?_⟩
    · cases hr : (lineRec s m).actual.runs
      · rw [c6 r hr]
        exact z hr
      · exact c5 r hr
    · rw [postLine_line, c7 k hk, onLine_line_ne hk]

/-- A re-forming leaves its line in the state that Table 3-5 gives, and every other line as it was. -/
theorem reformLine_line (m : Fin 6) (s : State) :
    (lineRec (reformLine m s) m).actual = lineTarget s m ∧
      (lineRec (reformLine m s) m).requested = (lineRec s m).requested ∧
      (lineRec (reformLine m s) m).manualRate = (lineRec s m).manualRate ∧
      (lineTarget s m = .starting → (lineRec s m).actual ≠ .starting →
        (lineRec (reformLine m s) m).rate = (lineCfg s m).rmin) ∧
      ((lineTarget s m).runs = false → ((lineRec s m).actual.runs = false → (lineRec s m).rate = 0) →
        (lineRec (reformLine m s) m).rate = 0) ∧
      OthersKept m s (reformLine m s) := by
  have h := enterLine_line m (lineTarget s m) s
  unfold reformLine
  refine ⟨?_, ?_, ?_, ?_, ?_, fun k hk => ?_⟩
  · rw [altSupportAlarm_line]; exact h.1
  · rw [altSupportAlarm_line]; exact h.2.1
  · rw [altSupportAlarm_line]; exact h.2.2.1
  · rw [altSupportAlarm_line]; exact h.2.2.2.1
  · rw [altSupportAlarm_line]; exact h.2.2.2.2.1
  · rw [altSupportAlarm_line]; exact h.2.2.2.2.2 k hk

/-! Stopped lines rest (R55) -/

theorem rests_of_lines {s t : State} (h : stoppedLinesRest s) (e : ∀ k, lineRec t k = lineRec s k) :
    stoppedLinesRest t := fun m hm => by
  rw [e] at hm ⊢
  exact h m hm

theorem rests_reformLine (m : Fin 6) {s : State} (h : stoppedLinesRest s) : stoppedLinesRest (reformLine m s) := by
  intro k hk
  have r := reformLine_line m s
  by_cases e : k = m
  · subst e
    rw [r.1] at hk
    exact r.2.2.2.2.1 hk (h k)
  · rw [r.2.2.2.2.2 k e] at hk ⊢
    exact h k hk

theorem rests_reformLines (p : State → Fin 6 → Bool) {s : State} (h : stoppedLinesRest s) :
    stoppedLinesRest (reformLines p s) := by
  unfold reformLines reformTelling
  simp only [id_eq]
  generalize lineList = ms
  induction ms generalizing s with
  | nil => exact h
  | cons m ms ih =>
    rw [List.foldl_cons]
    apply ih
    split
    · exact rests_reformLine m h
    · exact h

theorem rests_enterLine (m : Fin 6) (st : LineState) {s : State} (h : stoppedLinesRest s) :
    stoppedLinesRest (enterLine m st s) := by
  intro k hk
  have r := enterLine_line m st s
  by_cases e : k = m
  · subst e
    rw [r.1] at hk
    exact r.2.2.2.2.1 hk (h k)
  · rw [r.2.2.2.2.2 k e] at hk ⊢
    exact h k hk

end Sys2Proof.Machine
end

