-- ==== Sys2Proof/Laws/LineLaws.lean ====
section
/-! SUPPORT. The laws of the lines: Table 3-5 reads a line's own record and a few fields beside it, a re-forming settles every
line it takes, and the operations on lines keep stopped lines at rest and running lines at a lawful rate. -/

namespace Sys2Proof.Machine

/-! What Table 3-5 reads -/

/-- `t` has what Table 3-5 reads beside the line records: settings, points, burner states, mode, ignition lines. -/
structure SameBasis (s t : State) : Prop where
  settings : t.settings = s.settings
  points : t.points = s.points
  burners : ∀ n, burnerState t n = burnerState s n
  mode : t.kiln.mode = s.kiln.mode
  ignition : t.fuel.ignition = s.fuel.ignition

namespace SameBasis
variable {s t u : State}

theorem refl (s : State) : SameBasis s s := ⟨rfl, rfl, fun _ => rfl, rfl, rfl⟩

theorem trans (h : SameBasis s t) (k : SameBasis t u) : SameBasis s u :=
  ⟨k.settings.trans h.settings, k.points.trans h.points, fun n => (k.burners n).trans (h.burners n), k.mode.trans h.mode,
    k.ignition.trans h.ignition⟩

theorem ofReach {p : Fin 512 → Prop} (h : LineReach p s t) (i : t.fuel.ignition = s.fuel.ignition) : SameBasis s t :=
  ⟨h.settings, h.points, fun n => by unfold burnerState; rw [h.burners], by rw [h.kiln], i⟩

theorem cfg (h : SameBasis s t) (m : Fin 6) : lineCfg t m = lineCfg s m := by
  unfold lineCfg
  rw [h.settings]

theorem alt (h : SameBasis s t) (m : Fin 6) : isAlt t m = isAlt s m := by
  unfold isAlt
  rw [h.cfg]

theorem drive (h : SameBasis s t) (r : Role) : assigned t r = assigned s r := by
  unfold assigned
  rw [h.settings]

theorem allowed (h : SameBasis s t) (n : Fin 3) : altAllowed t n = altAllowed s n := by
  unfold altAllowed inletOk freshValue
  rw [h.settings, h.mode, h.points]

end SameBasis

/-- Table 3-5 reads actual and requested state of its line, and the basis. -/
theorem stateGiven_congr {s t : State} (h : SameBasis s t) (ok : Bool) {m : Fin 6}
    (ha : (lineRec t m).actual = (lineRec s m).actual) (hr : (lineRec t m).requested = (lineRec s m).requested) :
    stateGiven ok t m = stateGiven ok s m := by
  unfold stateGiven ignitionRuns ignitionState runningState
  simp only [h.cfg, h.burners, h.ignition, h.drive, ha, hr]

/-- The line that its burner has as ignition line runs. -/
def IgnitionHeld (s : State) (m : Fin 6) : Prop :=
  s.fuel.ignition.nth (lineCfg s m).burner = some m → (lineRec s m).actual.runs = true

/-- A line in the state that Table 3-5 gave it is given that state again. -/
theorem stateGiven_again {s t : State} (h : SameBasis s t) (ok : Bool) {m : Fin 6} (hi : IgnitionHeld s m)
    (ha : (lineRec t m).actual = stateGiven ok s m) (hr : (lineRec t m).requested = (lineRec s m).requested) :
    stateGiven ok t m = stateGiven ok s m := by
  unfold IgnitionHeld at hi
  unfold stateGiven ignitionRuns ignitionState runningState at *
  simp only [h.cfg, h.burners, h.ignition, h.drive, ha, hr] at *
  generalize (lineRec s m).actual = a at *
  generalize (lineRec s m).requested = r at *
  generalize burnerState s (lineCfg s m).burner = b at *
  generalize (lineCfg s m).configured = c at *
  generalize assigned s (.lineDrive m) = d at *
  by_cases g : s.fuel.ignition.nth (lineCfg s m).burner = some m
  · simp only [g, beq_self_eq_true, Bool.true_and, forall_const] at *
    cases a <;> cases c <;> cases b <;> cases r <;> cases d <;> cases ok <;> simp_all [LineState.runs, LineRequest.state]
  · have g' : (s.fuel.ignition.nth (lineCfg s m).burner == some m) = false := by simpa using g
    simp only [g', Bool.false_and] at *
    cases a <;> cases c <;> cases b <;> cases r <;> cases d <;> cases ok <;> rfl

/-! The operations on lines leave the ignition lines -/

theorem follow_fuel (a : Fin 512) (c : Bool) (s : State) : (follow a c s).fuel = s.fuel := by
  unfold follow
  split <;> rfl

theorem onRole_fuel (r : Role) (f : ChannelCfg → ChannelRec → ChannelRec) (s : State) :
    (onRole r f s).fuel = s.fuel := by
  unfold onRole
  split <;> rfl

@[simp] theorem handRate_ignition (m : Fin 6) (s : State) : (handRate m s).fuel.ignition = s.fuel.ignition := by
  unfold handRate
  simp only [follow_fuel, onLine]
  rw [onRole_fuel]

@[simp] theorem setRate_ignition (m : Fin 6) (c : Nat) (s : State) :
    (setRate m c s).fuel.ignition = s.fuel.ignition := by
  unfold setRate
  rw [handRate_ignition]
  rfl

@[simp] theorem stopLine_ignition (m : Fin 6) (s : State) : (stopLine m s).fuel.ignition = s.fuel.ignition := by
  unfold stopLine
  rw [clear_fuel, setRate_ignition]
  rfl

@[simp] theorem startWindow_ignition (m : Fin 6) (s : State) : (startWindow m s).fuel.ignition = s.fuel.ignition := by
  unfold startWindow captureEdges captureCycles
  split
  · split <;> split <;> rfl
  · rfl

@[simp] theorem postLine_ignition (m : Fin 6) (st : LineState) (s : State) :
    (postLine m st s).fuel.ignition = s.fuel.ignition := by
  unfold postLine
  split <;> rfl

@[simp] theorem enterLine_ignition (m : Fin 6) (st : LineState) (s : State) :
    (enterLine m st s).fuel.ignition = s.fuel.ignition := by
  by_cases h : (lineRec s m).actual = st
  · rw [enterLine_same m st s h]
  · rw [enterLine_eq m st s h, postLine_ignition]
    unfold enterChange
    cases st <;> (repeat' split) <;> simp [onLine]

@[simp] theorem reformLine_ignition (m : Fin 6) (s : State) : (reformLine m s).fuel.ignition = s.fuel.ignition := by
  unfold reformLine altSupportAlarm
  simp only
  split
  · split
    · rw [raise_fuel, enterLine_ignition]
    · rw [enterLine_ignition]
  · rw [clear_fuel, enterLine_ignition]

theorem basis_enterLine (m : Fin 6) (st : LineState) (s : State) : SameBasis s (enterLine m st s) :=
  .ofReach (lines_enterLine m st s) (enterLine_ignition m st s)

theorem basis_reformLine (m : Fin 6) (s : State) : SameBasis s (reformLine m s) :=
  .ofReach (lines_reformLine m s) (reformLine_ignition m s)

/-! A re-forming settles the lines it takes -/

/-- Table 3-5 gives every line what it gave before, when the one line that may have changed takes what it was given. -/
theorem lineTarget_again {s t : State} (h : SameBasis s t) {m : Fin 6} (hi : IgnitionHeld s m)
    (ha : (lineRec t m).actual = lineTarget s m) (hr : (lineRec t m).requested = (lineRec s m).requested)
    (ho : OthersKept m s t) (k : Fin 6) : lineTarget t k = lineTarget s k := by
  have other {i : Fin 6} (e : i ≠ m) (ok : Bool) : stateGiven ok t i = stateGiven ok s i :=
    stateGiven_congr h ok (by rw [ho i e]) (by rw [ho i e])
  have supp (n : Fin 3) : supports t n = supports s n := funext fun i => by
    unfold supports boundTo
    rw [h.alt, h.cfg]
    by_cases e : i = m
    · subst e
      cases halt : isAlt s i
      · have : stateGiven true t i = stateGiven true s i := by
          refine stateGiven_again h true hi ?_ hr
          rw [ha]
          unfold lineTarget
          simp [halt]
        rw [this]
      · simp
    · rw [other e]
  have ok (i : Fin 6) : (!isAlt t i || (altAllowed t (lineCfg t i).burner && supported t (lineCfg t i).burner)) =
      (!isAlt s i || (altAllowed s (lineCfg s i).burner && supported s (lineCfg s i).burner)) := by
    unfold supported
    rw [h.alt, h.cfg, h.allowed, supp]
  change stateGiven _ t k = stateGiven _ s k
  rw [ok]
  by_cases e : k = m
  · subst e
    exact stateGiven_again h _ hi ha hr
  · exact other e _

/-- Table 3-5 gives every line what it gave before, when no line's actual or requested state has changed. -/
theorem lineTarget_congr {s t : State} (h : SameBasis s t) (ha : ∀ k, (lineRec t k).actual = (lineRec s k).actual)
    (hr : ∀ k, (lineRec t k).requested = (lineRec s k).requested) (k : Fin 6) : lineTarget t k = lineTarget s k := by
  have g (ok : Bool) (i : Fin 6) : stateGiven ok t i = stateGiven ok s i := stateGiven_congr h ok (ha i) (hr i)
  unfold lineTarget supported supports boundTo
  simp only [g, h.cfg, h.alt, h.allowed]

theorem lineTarget_reformLine (m : Fin 6) (s : State) (hi : IgnitionHeld s m) (k : Fin 6) :
    lineTarget (reformLine m s) k = lineTarget s k := by
  have r := reformLine_line m s
  exact lineTarget_again (basis_reformLine m s) hi r.1 r.2.1 r.2.2.2.2.2 k

/-- What a re-forming of the lines that `p` names leaves: Table 3-5 gives what it gave, those lines stand in it, the others
are as they were. -/
structure Reformed (p : Fin 6 → Bool) (s t : State) : Prop where
  basis : SameBasis s t
  target : ∀ k, lineTarget t k = lineTarget s k
  settled : ∀ k, p k = true → (lineRec t k).actual = lineTarget s k ∧
    (lineRec t k).requested = (lineRec s k).requested
  others : ∀ k, p k = false → lineRec t k = lineRec s k

/-- A line's own part of an event leaves the states of all lines, and the records of the others. -/
structure Tells (tell : Fin 6 → State → State) : Prop where
  basis : ∀ m s, SameBasis s (tell m s)
  actual : ∀ m s, (lineRec (tell m s) m).actual = (lineRec s m).actual
  requested : ∀ m s, (lineRec (tell m s) m).requested = (lineRec s m).requested
  others : ∀ m s, OthersKept m s (tell m s)

namespace Tells
variable {tell : Fin 6 → State → State}

theorem states (h : Tells tell) (m : Fin 6) (s : State) (k : Fin 6) :
    (lineRec (tell m s) k).actual = (lineRec s k).actual ∧
      (lineRec (tell m s) k).requested = (lineRec s k).requested := by
  by_cases e : k = m
  · subst e; exact ⟨h.actual k s, h.requested k s⟩
  · rw [h.others m s k e]; exact ⟨rfl, rfl⟩

theorem target (h : Tells tell) (m : Fin 6) (s : State) (k : Fin 6) : lineTarget (tell m s) k = lineTarget s k :=
  lineTarget_congr (h.basis m s) (fun i => (h.states m s i).1) (fun i => (h.states m s i).2) k

theorem held (h : Tells tell) (m : Fin 6) {s : State} {k : Fin 6} (hi : IgnitionHeld s k) : IgnitionHeld (tell m s) k := by
  unfold IgnitionHeld at *
  rw [(h.basis m s).ignition, (h.basis m s).cfg, (h.states m s k).1]
  exact hi

end Tells

theorem tells_id : Tells fun _ => id := ⟨fun _ s => .refl s, fun _ _ => rfl, fun _ _ => rfl, fun _ _ _ _ => rfl⟩

theorem tells_postLine (m : Fin 6) (st : LineState) : Tells fun k => if k = m then postLine m st else id where
  basis k s := by
    split
    · exact .ofReach (lines_postLine m st s) (postLine_ignition m st s)
    · exact .refl s
  actual k s := by split <;> simp
  requested k s := by split <;> simp
  others k s i _ := by
    split
    · exact postLine_line m st s i
    · rfl

theorem reformed_fold (tell : Fin 6 → State → State) (ht : Tells tell) (q : State → Fin 6 → Bool) (p : Fin 6 → Bool)
    (ms : List (Fin 6)) (s : State) (nd : ms.Nodup) (hp : ∀ m, p m = false → tell m = id)
    (hq : ∀ u, u.settings = s.settings → q u = p) (hi : ∀ m ∈ ms, p m = true → IgnitionHeld s m) :
    Reformed (fun m => p m && decide (m ∈ ms)) s
      (ms.foldl (fun s m => if q (tell m s) m then reformLine m (tell m s) else tell m s) s) := by
  induction ms generalizing s with
  | nil => exact ⟨.refl s, fun _ => rfl, fun k hk => by simp at hk, fun _ _ => rfl⟩
  | cons m ms ih =>
    obtain ⟨hm, nd⟩ := List.nodup_cons.1 nd
    rw [List.foldl_cons, hq (tell m s) (ht.basis m s).settings]
    cases hpm : p m
    · simp only [hp m hpm, id_eq, Bool.false_eq_true, ↓reduceIte]
      have h := ih s nd hq fun k hk => hi k (List.mem_cons_of_mem m hk)
      refine ⟨h.basis, h.target, fun k hk => h.settled k ?_, fun k hk => h.others k ?_⟩
      · by_cases e : k = m
        · subst e; simp [hpm] at hk
        · simpa [e] using hk
      · by_cases e : k = m
        · subst e; simp [hpm]
        · simpa [e] using hk
    · simp only [↓reduceIte]
      have b := (ht.basis m s).trans (basis_reformLine m (tell m s))
      have r := reformLine_line m (tell m s)
      have others (k : Fin 6) (e : k ≠ m) : lineRec (reformLine m (tell m s)) k = lineRec s k :=
        (r.2.2.2.2.2 k e).trans (ht.others m s k e)
      have tg (k : Fin 6) : lineTarget (reformLine m (tell m s)) k = lineTarget s k :=
        (lineTarget_reformLine m (tell m s) (ht.held m (hi m (by simp) hpm)) k).trans (ht.target m s k)
      have h := ih (reformLine m (tell m s)) nd (fun u hu => hq u (hu.trans b.settings)) fun k hk hpk => by
        have e : k ≠ m := fun e => hm (e ▸ hk)
        unfold IgnitionHeld
        rw [b.ignition, b.cfg, others k e]
        exact hi k (List.mem_cons_of_mem m hk) hpk
      refine ⟨b.trans h.basis, fun k => (h.target k).trans (tg k), fun k hk => ?_, fun k hk => ?_⟩
      · by_cases e : k = m
        · subst e
          have o := h.others k (by simp [hm])
          rw [o, r.1, r.2.1, ht.target, ht.requested]
          exact ⟨rfl, rfl⟩
        · obtain ⟨x, y⟩ := h.settled k (by simpa [e] using hk)
          rw [x, y, tg, others k e]
          exact ⟨rfl, rfl⟩
      · have e : k ≠ m := fun e => by subst e; simp [hpm] at hk
        rw [h.others k (by simpa [e] using hk), others k e]

/-- A re-forming of the lines that `p` names, each after its own part of the event, settles them. -/
theorem reformed_reformTelling (tell : Fin 6 → State → State) (ht : Tells tell) (q : State → Fin 6 → Bool)
    (p : Fin 6 → Bool) (s : State) (hp : ∀ m, p m = false → tell m = id)
    (hq : ∀ u, u.settings = s.settings → q u = p) (hi : ∀ m, p m = true → IgnitionHeld s m) :
    Reformed p s (reformTelling tell q s) := by
  have h := reformed_fold tell ht q p lineList s (by decide) hp hq fun m _ => hi m
  have all : ∀ m : Fin 6, m ∈ lineList := by decide
  simp only [all, decide_true, Bool.and_true] at h
  exact h

theorem reformed_reformLines (q : State → Fin 6 → Bool) (p : Fin 6 → Bool) (s : State)
    (hq : ∀ u, u.settings = s.settings → q u = p) (hi : ∀ m, p m = true → IgnitionHeld s m) :
    Reformed p s (reformLines q s) := reformed_reformTelling _ tells_id q p s (fun _ _ => rfl) hq hi

/-- The notice of line `m` and the re-forming of its burner's lines settle those lines. -/
theorem reformed_tellFrom (m : Fin 6) (st : LineState) (s : State) (hi : ∀ k, IgnitionHeld s k) :
    Reformed (boundTo s (lineCfg s m).burner) s (tellFrom m st s) := by
  unfold tellFrom
  exact reformed_reformTelling _ (tells_postLine m st) _ _ s
    (fun k hk => if_neg fun e => by rw [e] at hk; simp [boundTo] at hk)
    (fun u hu => by unfold boundTo lineCfg; rw [hu]) fun k _ => hi k

theorem reformed_burner (n : Fin 3) (s : State) (hi : ∀ m, IgnitionHeld s m) :
    Reformed (boundTo s n) s (reformBurner n s) :=
  reformed_reformLines _ _ s (fun u hu => by unfold boundTo lineCfg; rw [hu]) fun m _ => hi m

theorem reformed_all (s : State) (hi : ∀ m, IgnitionHeld s m) : Reformed (fun _ => true) s (reformAll s) :=
  reformed_reformLines _ _ s (fun _ _ => rfl) fun m _ => hi m

/-! Rates and drives -/

/-- A channel HALTED with its output low. -/
def Quiet (ch : ChannelRec) : Prop := ch.running = false ∧ ch.high = false

/-- Line `m` is at rest with its drive HALTED low, or runs at a lawful rate (R50, R55). -/
def LineOk (s : State) (m : Fin 6) : Prop :=
  ((lineRec s m).actual.runs = false →
    (lineRec s m).rate = 0 ∧ ∀ c, s.settings.channelOf (.lineDrive m) = some c → Quiet (s.channels.nth c)) ∧
  ((lineRec s m).actual.runs = true →
    (lineCfg s m).rmin ≤ (lineRec s m).rate ∧ (lineRec s m).rate ≤ (lineCfg s m).rmax)

/-- Every line is at rest or runs at a lawful rate: three laws of the obligations in one. -/
theorem linesOk_iff (s : State) :
    (∀ m, LineOk s m) ↔ stoppedLinesRest s ∧ stoppedDrivesRest s ∧ runningRatesLawful s :=
  ⟨fun h => ⟨fun m hm => ((h m).1 hm).1, fun m c hc hm => ((h m).1 hm).2 c hc, fun m hm => (h m).2 hm⟩,
    fun ⟨a, b, d⟩ m => ⟨fun hm => ⟨a m hm, fun c hc => b m c hc hm⟩, fun hm => d m hm⟩⟩

/-- From `s` to `t` only line `m` and its drive changed, as far as the laws see. -/
structure LineOnly (m : Fin 6) (s t : State) : Prop where
  settings : t.settings = s.settings
  others : OthersKept m s t
  drives : ∀ c, s.settings.channelOf (.lineDrive m) ≠ some c → Quiet (s.channels.nth c) → Quiet (t.channels.nth c)

theorem LineOnly.trans {m : Fin 6} {s t u : State} (h : LineOnly m s t) (k : LineOnly m t u) : LineOnly m s u :=
  ⟨k.settings.trans h.settings, h.others.trans k.others, fun c hc q => k.drives c (by rw [h.settings]; exact hc) (h.drives c hc q)⟩

theorem LineOnly.keeps {m : Fin 6} {s t : State} (h : LineOnly m s t) (hs : ∀ k, LineOk s k) (hm : LineOk t m) (k : Fin 6) :
    LineOk t k := by
  by_cases e : k = m
  · subst e; exact hm
  · obtain ⟨a, b⟩ := hs k
    have r := h.others k e
    refine ⟨fun hk => ?_, fun hk => ?_⟩
    · rw [r] at hk ⊢
      refine ⟨(a hk).1, fun c hc => ?_⟩
      rw [h.settings] at hc
      refine h.drives c (fun hc' => e ?_) ((a hk).2 c hc)
      have x := owner_channelOf hc
      rw [owner_channelOf hc'] at x
      cases x
      rfl
    · unfold lineCfg at *
      rw [r] at hk ⊢
      rw [h.settings]
      exact b hk

/-- Steps that change no line's state or rate, and no drive. -/
theorem LineOk.same {s t : State} {m : Fin 6} (h : LineOk s m) (hs : t.settings = s.settings)
    (ha : (lineRec t m).actual = (lineRec s m).actual) (hr : (lineRec t m).rate = (lineRec s m).rate)
    (hc : ∀ c, Quiet (s.channels.nth c) → Quiet (t.channels.nth c)) : LineOk t m := by
  unfold LineOk lineCfg at *
  rw [ha, hr, hs]
  exact ⟨fun k => ⟨(h.1 k).1, fun c x => hc c ((h.1 k).2 c x)⟩, h.2⟩

theorem only_onLine (m : Fin 6) (f : LineRec → LineRec) (s : State) : LineOnly m s (onLine m f s) :=
  ⟨rfl, others_onLine m f s, fun _ _ q => q⟩

theorem follow_channels (a : Fin 512) (c : Bool) (s : State) : (follow a c s).channels = s.channels := by
  unfold follow
  split <;> rfl

theorem handRate_channels (m : Fin 6) (s : State) (c : Fin 24) :
    (handRate m s).channels.nth c = if s.settings.channelOf (.lineDrive m) = some c then
      handFreq (s.settings.channels.nth c) (driveFreq (lineRec s m).rate (lineFactors s m).kf) (s.channels.nth c)
    else s.channels.nth c := by
  unfold handRate
  simp only [follow_channels, onLine]
  unfold onRole
  split
  · rename_i d hd
    simp only [onChannel, Tab.nth_upd, hd, Option.some.injEq]
    by_cases e : c = d
    · subst e; simp
    · have e' : d ≠ c := fun x => e x.symm
      simp [e, e']
  · rename_i hd
    simp [hd]

theorem only_handRate (m : Fin 6) (s : State) : LineOnly m s (handRate m s) :=
  ⟨(lines_handRate m s).settings, (handRate_line m s).2, fun c hc q => by rw [handRate_channels, if_neg hc]; exact q⟩

theorem only_setRate (m : Fin 6) (c : Nat) (s : State) : LineOnly m s (setRate m c s) :=
  (only_onLine m _ s).trans (only_handRate m _)

theorem only_clear (m : Fin 6) (a : Fin 512) (s : State) : LineOnly m s (clear a s) := ⟨rfl, fun _ _ => rfl, fun _ _ q => q⟩
theorem only_raise (m : Fin 6) (a : Fin 512) (s : State) : LineOnly m s (raise a s) := ⟨rfl, fun _ _ => rfl, fun _ _ q => q⟩

theorem only_postLine (m : Fin 6) (st : LineState) (s : State) : LineOnly m s (postLine m st s) :=
  ⟨(lines_postLine m st s).settings, fun k _ => postLine_line m st s k, fun c _ q => by
    unfold postLine
    split <;> exact q⟩

theorem only_stopLine (m : Fin 6) (s : State) : LineOnly m s (stopLine m s) :=
  (only_onLine m _ s).trans ((only_setRate m 0 _).trans (only_clear m _ _))

theorem quiet_startWindow (m : Fin 6) (s : State) (c : Fin 24) (q : Quiet (s.channels.nth c)) :
    Quiet ((startWindow m s).channels.nth c) := by
  have put (t : State) (d : Fin 24) (f : ChannelRec → ChannelRec) (hf : ∀ x, Quiet x → Quiet (f x))
      (q : Quiet (t.channels.nth c)) : Quiet ((onChannel d f t).channels.nth c) := by
    simp only [onChannel, Tab.nth_upd]
    split
    · exact hf _ q
    · exact q
  have edges (r : Role) (t : State) (q : Quiet (t.channels.nth c)) : Quiet ((captureEdges r t).2.channels.nth c) := by
    unfold captureEdges
    split
    · exact put _ _ _ (fun _ x => x) q
    · exact q
  have cycles (r : Role) (t : State) (q : Quiet (t.channels.nth c)) : Quiet ((captureCycles r t).2.channels.nth c) := by
    unfold captureCycles
    split
    · exact put _ _ _ (fun _ x => x) q
    · exact q
  unfold startWindow
  split
  · exact cycles _ _ (edges _ _ q)
  · exact q

theorem only_startWindow (m : Fin 6) (s : State) : LineOnly m s (startWindow m s) :=
  ⟨(lines_startWindow m s).settings, (startWindow_line m s).2, fun c _ q => quiet_startWindow m s c q⟩

/-- A stopped line has its drive HALTED low. -/
theorem stopLine_quiet (m : Fin 6) (s : State) (c : Fin 24) (h : s.settings.channelOf (.lineDrive m) = some c) :
    Quiet ((stopLine m s).channels.nth c) := by
  unfold stopLine setRate
  rw [clear_channels, handRate_channels, onLine_line_self, if_pos]
  · simp [driveFreq, handFreq, Quiet, haltChannel]
  · exact h

/-- A line that stops, or takes a lawful rate as it starts, is in order. -/
theorem ok_enterLine (m : Fin 6) (st : LineState) {s : State} (h : LineOk s m)
    (hr : (lineCfg s m).rmin ≤ (lineCfg s m).rmax) (hst : st = .auto ∨ st = .manual → (lineRec s m).actual.runs = true) :
    LineOk (enterLine m st s) m := by
  by_cases e : (lineRec s m).actual = st
  · rw [enterLine_same m st s e]; exact h
  rw [enterLine_eq m st s e]
  have hp (t : State) : LineOk t m → LineOk (postLine m st t) m := fun x =>
    x.same (lines_postLine m st t).settings (by rw [postLine_line]) (by rw [postLine_line]) fun c q => by
      unfold postLine
      split <;> exact q
  apply hp
  generalize hu : onLine m (fun x => { x with actual := st }) s = u
  have us : u.settings = s.settings := by rw [← hu]; rfl
  have uc : u.channels = s.channels := by rw [← hu]; rfl
  have ur : lineRec u m = { lineRec s m with actual := st } := by rw [← hu, onLine_line_self]
  have uf : lineCfg u m = lineCfg s m := by unfold lineCfg; rw [us]
  have running (t : State) (hs : t.settings = s.settings) (ha : (lineRec t m).actual.runs = true)
      (hc : (lineCfg s m).rmin ≤ (lineRec t m).rate ∧ (lineRec t m).rate ≤ (lineCfg s m).rmax) : LineOk t m := by
    have tf : lineCfg t m = lineCfg s m := by unfold lineCfg; rw [hs]
    exact ⟨fun k => absurd (ha.symm.trans k) (by simp), fun _ => by rw [tf]; exact hc⟩
  have stopped (hst : st.runs = false) : LineOk (if (lineRec s m).actual.runs then stopLine m u else u) m := by
    cases hb : (lineRec s m).actual.runs
    · simp only [Bool.false_eq_true, ↓reduceIte]
      refine ⟨fun _ => ?_, fun k => by rw [ur] at k; exact absurd (hst.symm.trans k) (by simp)⟩
      rw [ur, us, uc]
      exact h.1 hb
    · simp only [↓reduceIte]
      obtain ⟨⟨mk, hl⟩, _⟩ := stopLine_line m u
      refine ⟨fun _ => ⟨by rw [hl], fun c hc => ?_⟩, fun k => by rw [hl, ur] at k; exact absurd (hst.symm.trans k) (by simp)⟩
      exact stopLine_quiet m u c (by rwa [(lines_stopLine m u).settings] at hc)
  have window (hst : st.runs = true) (ho : (lineRec s m).actual.runs = true) : LineOk (startWindow m u) m := by
    obtain ⟨⟨w, k, hl⟩, _⟩ := startWindow_line m u
    refine running _ ((lines_startWindow m u).settings.trans us) (by rw [hl, ur]; exact hst) ?_
    rw [hl, ur]
    exact h.2 ho
  have stay (hst : st.runs = true) (ho : (lineRec s m).actual.runs = true) : LineOk u m :=
    running u us (by rw [ur]; exact hst) (by rw [ur]; exact h.2 ho)
  unfold enterChange
  cases st
  · exact stopped rfl
  · exact stopped rfl
  · obtain ⟨⟨mk, hl⟩, _⟩ := setRate_line m (lineCfg u m).rmin u
    refine running _ ((lines_setRate m _ u).settings.trans us) (by rw [hl, ur]; rfl) ?_
    rw [hl, uf]
    exact ⟨Nat.le_refl _, hr⟩
  · have ho := hst (Or.inl rfl)
    simp only
    split
    · exact stay rfl ho
    · exact window rfl ho
  · have ho := hst (Or.inr rfl)
    simp only
    split
    · exact stay rfl ho
    · exact window rfl ho
  · exact stopped rfl

theorem only_enterLine (m : Fin 6) (st : LineState) (s : State) : LineOnly m s (enterLine m st s) := by
  by_cases e : (lineRec s m).actual = st
  · rw [enterLine_same m st s e]
    exact ⟨rfl, fun _ _ => rfl, fun _ _ q => q⟩
  rw [enterLine_eq m st s e]
  refine (only_onLine m (fun x => { x with actual := st }) s).trans (LineOnly.trans ?_ (only_postLine m st _))
  have refl (t : State) : LineOnly m t t := ⟨rfl, fun _ _ => rfl, fun _ _ q => q⟩
  unfold enterChange
  cases st <;> simp only
  · split
    · exact only_stopLine m _
    · exact refl _
  · split
    · exact only_stopLine m _
    · exact refl _
  · exact only_setRate m _ _
  · split
    · exact refl _
    · exact only_startWindow m _
  · split
    · exact refl _
    · exact only_startWindow m _
  · split
    · exact only_stopLine m _
    · exact refl _

/-- A line that Table 3-5 puts in AUTO or MANUAL runs already. -/
theorem runs_of_lineTarget {s : State} {m : Fin 6} (h : lineTarget s m = .auto ∨ lineTarget s m = .manual) :
    (lineRec s m).actual.runs = true := by
  unfold lineTarget stateGiven ignitionRuns runningState at h
  simp only at h
  by_contra hr
  simp only [Bool.not_eq_true] at hr
  simp only [hr, Bool.and_false, Bool.false_and, Bool.false_eq_true, if_false] at h
  (repeat' split at h) <;> simp_all

/-- A re-forming keeps stopped lines at rest and running lines at a lawful rate. -/
theorem ok_reformLine (m : Fin 6) {s : State} (h : ∀ k, LineOk s k) (hr : (lineCfg s m).rmin ≤ (lineCfg s m).rmax) (k : Fin 6) :
    LineOk (reformLine m s) k := by
  have e := (only_enterLine m (lineTarget s m) s).keeps h (ok_enterLine m _ (h m) hr runs_of_lineTarget)
  have hs := (lines_altSupportAlarm m (enterLine m (lineTarget s m) s)).settings
  refine (e k).same hs (by unfold reformLine; rw [altSupportAlarm_line]) (by unfold reformLine; rw [altSupportAlarm_line])
    fun c q => ?_
  unfold reformLine altSupportAlarm
  simp only
  split
  · split <;> exact q
  · exact q

/-- What keeps the laws of the lines, line after line, keeps them in a re-forming. -/
theorem ok_reformTelling (tell : Fin 6 → State → State)
    (ht : ∀ m u, (∀ k, LineOk u k) → (tell m u).settings = u.settings ∧ ∀ k, LineOk (tell m u) k)
    (q : State → Fin 6 → Bool) {s : State} (h : ∀ k, LineOk s k) (hr : ∀ m, (lineCfg s m).rmin ≤ (lineCfg s m).rmax)
    (k : Fin 6) : LineOk (reformTelling tell q s) k := by
  unfold reformTelling
  generalize lineList = ms
  induction ms generalizing s with
  | nil => exact h k
  | cons m ms ih =>
    rw [List.foldl_cons]
    obtain ⟨hs, ho⟩ := ht m s h
    have hr' (i : Fin 6) : (lineCfg (tell m s) i).rmin ≤ (lineCfg (tell m s) i).rmax := by
      unfold lineCfg
      rw [hs]
      exact hr i
    split
    · refine ih (ok_reformLine m ho (hr' m)) fun i => ?_
      rw [(basis_reformLine m (tell m s)).cfg]
      exact hr' i
    · exact ih ho hr'

theorem ok_reformLines (q : State → Fin 6 → Bool) {s : State} (h : ∀ k, LineOk s k)
    (hr : ∀ m, (lineCfg s m).rmin ≤ (lineCfg s m).rmax) (k : Fin 6) : LineOk (reformLines q s) k :=
  ok_reformTelling _ (fun _ _ h => ⟨rfl, h⟩) q h hr k

end Sys2Proof.Machine
end

