-- ==== Sys2Proof/Laws/Drives.lean ====
section
/-! SUPPORT. What the hand-overs leave: a followed alarm follows, a line's rate, a grate's speed and a halt stand handed to
their drive channels (R55, R95, R99). -/

namespace Sys2Proof.Machine

/-- An alarm that follows a condition is active as the condition holds. -/
theorem alarmActive_follow (a : Fin 512) (c : Bool) (s : State) (ha : ¬ byLoss a) : alarmActive (follow a c s) a = c := by
  cases c
  · exact clearAlarm_inactive (env s) a s.rep ha
  · exact raiseAlarm_active (env s) a s.rep

/-- A line alarm is not one that a lost notice raises. -/
theorem lineAlarm_not_byLoss (m : Fin 6) (k : Fin 4) : ¬ byLoss (lineAlarm m k) := by
  revert m k
  unfold byLoss
  decide

/-- The channel records after an operation on the channel of a role. -/
theorem onRole_nth (r : Role) (f : ChannelCfg → ChannelRec → ChannelRec) (s : State) (c : Fin 24) :
    (onRole r f s).channels.nth c =
      if s.settings.channelOf r = some c then f (s.settings.channels.nth c) (s.channels.nth c) else s.channels.nth c := by
  unfold onRole
  split
  · rename_i d hd
    by_cases e : d = c
    · subst e
      simp [onChannel, hd]
    · have e' : c ≠ d := fun x => e x.symm
      simp [onChannel, hd, Tab.nth_upd, e, e']
  · rename_i hd
    simp [hd]

/-- An operation on the channel of a role changes the channel records alone. -/
theorem onRole_frame (r : Role) (f : ChannelCfg → ChannelRec → ChannelRec) (s : State) :
    onRole r f s = { s with channels := (onRole r f s).channels } := by
  unfold onRole
  split <;> rfl

@[simp] theorem onRole_settings (r : Role) (f : ChannelCfg → ChannelRec → ChannelRec) (s : State) :
    (onRole r f s).settings = s.settings := by
  rw [onRole_frame]

@[simp] theorem onRole_cooler (r : Role) (f : ChannelCfg → ChannelRec → ChannelRec) (s : State) :
    (onRole r f s).cooler = s.cooler := by
  rw [onRole_frame]

/-- The marker of a role after an operation on its channel. -/
theorem markerOf_onRole (r : Role) (f : ChannelCfg → ChannelRec → ChannelRec) (s : State) :
    (∀ c, s.settings.channelOf r = some c →
      markerOf r (onRole r f s) = (f (s.settings.channels.nth c) (s.channels.nth c)).marker) ∧
    (s.settings.channelOf r = none → markerOf r (onRole r f s) = .none) := by
  refine ⟨fun c h => ?_, fun h => ?_⟩
  · simp [markerOf, h, onRole_nth]
  · simp [markerOf, h]

/-- A hand-over of the rate leaves the line driven at it. -/
theorem lineDriven_handRate (m : Fin 6) (s : State) : lineDriven m s.channels.nth (handRate m s) := by
  have hs : (handRate m s).settings = s.settings := (lines_handRate m s).settings
  have hf : (handRate m s).fuel.factors = s.fuel.factors := by rw [(lines_handRate m s).fuel]
  let handed := onRole (.lineDrive m) (fun cfg => handFreq cfg (driveFreq (lineRec s m).rate (lineFactors s m).kf)) s
  have hr : lineRec (handRate m s) m = { lineRec s m with driveLimit := markerOf (.lineDrive m) handed } := by
    unfold handRate
    rw [follow_line, onLine_line_self, onRole_line]
  refine ⟨fun c hc => ?_, fun hn => ?_, ?_⟩
  · rw [hs] at hc ⊢
    have hch := handRate_channels m s c
    rw [if_pos hc] at hch
    rw [hch, hr]
    refine ⟨?_, (markerOf_onRole _ _ s).1 c hc⟩
    simp only [driveFreq, lineFactors, hf]
  · rw [hs] at hn
    rw [hr]
    exact (markerOf_onRole _ _ s).2 hn
  · rw [hr]
    unfold handRate
    exact alarmActive_follow _ _ _ (lineAlarm_not_byLoss m 3)

/-- A hand-over of the speed leaves the grate driven at it. -/
theorem grateDriven_driveGrate (n : Fin 3) (s : State) : grateDriven n s.channels.nth (driveGrate n s) := by
  let v := (s.cooler.grates.nth n).speed
  let handed := onRole (.grateDrive n) (fun cfg => handFreq cfg (v * s.settings.cooler.kd)) s
  have hr : (driveGrate n s).cooler.grates.nth n =
      { s.cooler.grates.nth n with driveLimit := markerOf (.grateDrive n) handed, windowSpeed := v } := by
    simp [driveGrate, onGrate, onCooler, v, handed]
  have hc (c : Fin 24) : (driveGrate n s).channels.nth c =
      if s.settings.channelOf (.grateDrive n) = some c then
        handFreq (s.settings.channels.nth c) ((s.cooler.grates.nth n).speed * s.settings.cooler.kd) (s.channels.nth c)
      else s.channels.nth c := onRole_nth _ _ s c
  have hs : (driveGrate n s).settings = s.settings := by
    simp [driveGrate, onGrate, onCooler]
  refine ⟨by rw [hr], fun c h => ?_, fun h => ?_⟩
  · rw [hs] at h ⊢
    rw [hc, if_pos h, hr]
    exact ⟨rfl, (markerOf_onRole _ _ s).1 c h⟩
  · rw [hs] at h
    rw [hr]
    exact (markerOf_onRole _ _ s).2 h

/-- A halted grate's drive is halted. -/
theorem grateHalted_haltGrate (n : Fin 3) (s : State) : grateHalted n s.channels.nth (haltGrate n s) := by
  have hs : (haltGrate n s).settings = s.settings := by
    simp [haltGrate, onGrate, onCooler]
  refine ⟨by simp [haltGrate, onGrate, onCooler], fun c h => ?_⟩
  rw [hs] at h
  exact (onRole_nth _ _ s c).trans (if_pos h)

/-- A fan that takes its applied reference is handed it. -/
theorem fanHanded_applyFan (n : Fin 6) (s : State) : fanHanded n s.channels.nth (applyFan n s) := by
  have hs : (applyFan n s).settings = s.settings := by
    simp [applyFan, handFan, onCooler]
  intro c h
  rw [hs] at h ⊢
  refine (onRole_nth _ _ (onCooler _ s) c).trans ((if_pos h).trans ?_)
  simp only [applyFan, handFan, onRole_cooler]
  rfl

end Sys2Proof.Machine
end

