-- ==== Sys2Proof/Laws/FuelFrames.lean ====
section
/-! SUPPORT. What the processing of a control period can change: lines, demand records, the lines' channels and what they
report; and which of its steps leave every line's state and rate. -/

namespace Sys2Proof.Machine

/-- A control period can change any alarm, by a limit of reporting alone. -/
abbrev AnyAlarm : Fin 512 → Prop := fun _ => True

theorem LineReach.any {p : Fin 512 → Prop} {s t : State} (h : LineReach p s t) : LineReach AnyAlarm s t :=
  h.mono fun _ _ => trivial

theorem period_raise (a : Fin 512) (s : State) : LineReach AnyAlarm s (raise a s) := lines_raise a s fun _ _ => trivial
theorem period_clear (a : Fin 512) (s : State) : LineReach AnyAlarm s (clear a s) := lines_clear a s fun _ _ => trivial

theorem period_follow (a : Fin 512) (c : Bool) (s : State) : LineReach AnyAlarm s (follow a c s) :=
  lines_follow a c s fun _ _ => trivial

theorem period_addGrams (m : Fin 6) (g : Nat) (s : State) : LineReach AnyAlarm s (addGrams m g s) := lines_account _ _ s

theorem period_addMeteredMs (m : Fin 6) (mt : Metering) (ms : Nat) (s : State) :
    LineReach AnyAlarm s (addMeteredMs m mt ms s) := lines_account _ _ s

theorem period_addHeat (n : Fin 3) (alt : Bool) (kj : Nat) (s : State) : LineReach AnyAlarm s (addHeat n alt kj s) :=
  lines_account _ _ s

theorem period_weighAlarm (m : Fin 6) (mt : Metering) (s : State) : LineReach AnyAlarm s (weighAlarm m mt s) := by
  unfold weighAlarm
  split
  · exact period_clear _ s
  · split
    · exact period_raise _ s
    · exact .refl _ s

theorem period_integrateLine (ms : Nat) (m : Fin 6) (s : State) : LineReach AnyAlarm s (integrateLine ms m s) := by
  unfold integrateLine
  simp only
  split
  · exact .refl _ s
  · exact (lines_onLine _ m _ s).trans ((period_weighAlarm m _ _).trans ((period_addGrams m _ _).trans
      ((period_addMeteredMs m _ ms _).trans (period_addHeat _ _ _ _))))

theorem period_integrateAll (ms : Nat) (s : State) : LineReach AnyAlarm s (integrateAll ms s) :=
  .foldl _ (fun s m => period_integrateLine ms m s) lineList s

theorem period_stageTrim (n : Fin 3) (s : State) : LineReach AnyAlarm s (stageTrim n s) := by
  unfold stageTrim
  split
  · simp only
    split
    · exact (lines_onDemand _ 0 _ s).trans (period_clear 86 _)
    · exact period_raise 86 s
    · exact lines_onDemand _ 0 _ s
  · exact .refl _ s

theorem period_setManualRates (n : Fin 3) (s : State) : LineReach AnyAlarm s (setManualRates n s) :=
  .foldl _ (fun s m => by
    split
    · exact (lines_setRate m _ s).any
    · exact .refl _ s) lineList s

theorem period_storeAssigned (n : Fin 3) (xs : List Alloc) (s : State) : LineReach AnyAlarm s (storeAssigned n xs s) :=
  .foldl _ (fun s m => by
    split
    · exact lines_onLine _ m _ s
    · exact .refl _ s) lineList s

theorem period_stageOutcome (n : Fin 3) (d : Nat) (xs : List Alloc) (s : State) :
    LineReach AnyAlarm s (stageOutcome n d xs s) := by
  have h (u : State) (c e : Prop) [Decidable c] [Decidable e] : LineReach AnyAlarm u
      (if c then raise (burnerAlarm n 10) u else if e then clear (burnerAlarm n 10) u else u) := by
    split
    · exact period_raise _ u
    · split
      · exact period_clear _ u
      · exact .refl _ u
  exact (lines_onDemand _ n _ s).trans ((h _ _ _).trans (period_follow _ _ _))

theorem period_driveAuto (m : Fin 6) (s : State) : LineReach AnyAlarm s (driveAuto m s) :=
  (lines_onLine _ m _ s).trans (lines_setRate m _ _).any

theorem period_driveAutoLines (n : Fin 3) (s : State) : LineReach AnyAlarm s (driveAutoLines n s) :=
  .foldl _ (fun s m => by
    split
    · exact period_driveAuto m s
    · exact .refl _ s) lineList s

theorem period_periodBurner (s : State) (n : Fin 3) : LineReach AnyAlarm s (periodBurner s n) := by
  unfold periodBurner
  split
  · exact (lines_onDemand _ n _ s).trans ((period_stageTrim n _).trans ((lines_onDemand _ n _ _).trans
      ((period_setManualRates n _).trans ((lines_onDemand _ n _ _).trans ((period_storeAssigned n _ _).trans
        ((period_stageOutcome n _ _ _).trans (period_driveAutoLines n _)))))))
  · exact .refl _ s

theorem period_convertLine (s : State) (m : Fin 6) : LineReach AnyAlarm s (convertLine s m) := lines_onLine _ m _ s

theorem lines_tellConversion (m : Fin 6) (s : State) : LineReach lineSet s (tellConversion m s) :=
  (lines_enterChange m _ _ s).trans (lines_postLine m _ _)

theorem period_convertLines (ms : List (Fin 6)) (s : State) : LineReach AnyAlarm s (convertLines ms s) := by
  unfold convertLines
  refine (LineReach.foldl convertLine period_convertLine ms s).trans (lines_reformTelling _ (fun m u => ?_) _ _).any
  split
  · exact lines_tellConversion m u
  · exact .refl _ u

/-- The factors a processing works with: a period processing takes those of the settings, step 1 alone keeps them (R44). -/
def factorsFor (full : Bool) (s : State) : State := if full then takeFactors s else s

/-- Beside the factors it takes, a processing changes only lines, demand records, channels and reports. -/
theorem period_processPeriod (full : Bool) (ms : Nat) (s : State) :
    LineReach AnyAlarm (factorsFor full s) (processPeriod full ms s) := by
  unfold processPeriod factorsFor
  cases full
  · exact period_integrateAll ms s
  · exact (period_integrateAll ms _).trans
      ((LineReach.foldl periodBurner period_periodBurner burnerList _).trans (period_convertLines _ _))

/-- A processing leaves the factors it works with in force. -/
theorem processPeriod_factors (full : Bool) (ms : Nat) (s : State) : (processPeriod full ms s).fuel.factors =
    if full then Tab.mapAll LineCfg.factors s.settings.lines else s.fuel.factors := by
  have h := (period_processPeriod full ms s).fuel
  unfold fuelKept at h
  rw [h]
  unfold factorsFor
  split <;> rfl

/-- What the end of a control period can change, its timer, and the factors in force. -/
theorem endPeriod_frame (full : Bool) (counts : Nat) (s : State) :
    let t := endPeriod full counts s
    t = { s with fuel := t.fuel, channels := t.channels, rep := t.rep } ∧ channelsKept s t ∧ repKept s t ∧
      t.fuel.fraction = (counts + s.fuel.fraction) % 4000 ∧
      t.fuel.periodLeft = Config.ms s.settings.fuel.controlPeriod ∧
      t.fuel.periodLength = Config.ms s.settings.fuel.controlPeriod ∧
      t.fuel.factors = if full then Tab.mapAll LineCfg.factors s.settings.lines else s.fuel.factors := by
  have h := period_processPeriod full ((counts + s.fuel.fraction) / Config.countsPerMs) s
  have hf := processPeriod_factors full ((counts + s.fuel.fraction) / Config.countsPerMs) s
  have hs : (processPeriod full ((counts + s.fuel.fraction) / Config.countsPerMs) s).settings = s.settings := by
    rw [h.settings]
    unfold factorsFor takeFactors
    split <;> rfl
  unfold endPeriod
  simp only
  generalize processPeriod full ((counts + s.fuel.fraction) / Config.countsPerMs) s = u at *
  have frame := h.frame
  have told := h.told.keeps h.mode
  have channels := h.channels
  unfold factorsFor takeFactors at frame told channels
  refine ⟨?_, ?_, ?_, rfl, ?_, ?_, hf⟩
  · unfold restartPeriod
    rw [frame]
    split <;> rfl
  · intro c hc
    refine (channels c ?_).trans ?_ <;> split <;> first | exact hc | rfl
  · have := told.1
    split at this <;> exact this
  · exact congrArg (fun c : Settings => Config.ms c.fuel.controlPeriod) hs
  · exact congrArg (fun c : Settings => Config.ms c.fuel.controlPeriod) hs

/-- A control period keeps the agreements of the reporting side. -/
theorem endPeriod_keeps (full : Bool) (counts : Nat) (s : State) : Keeps s.rep (endPeriod full counts s).rep := by
  have h := (period_processPeriod full ((counts + s.fuel.fraction) / Config.countsPerMs) s).keeps
  unfold factorsFor takeFactors at h
  split at h <;> exact h

end Sys2Proof.Machine
end

