-- ==== Sys2Proof/Laws/PointFrames.lean ====
section
/-! SUPPORT. What the operations on points and inputs can change, limit evaluation, and the air permissives that a re-forming
leaves. -/

namespace Sys2Proof.Machine

/-- From `s` to `t` only points, burners, lines, the mode record and the reporting side changed. -/
structure PointReach (s t : State) : Prop where
  frame : t = { s with points := { s.points with points := t.points.points }, burners := t.burners, fuel := t.fuel,
                       channels := t.channels, kiln := t.kiln, rep := t.rep }
  fuel : fuelKept s t
  channels : channelsKept s t
  told : Reported (fun _ => True) s.rep t.rep
  mode : modeGiven s t
  keeps : Keeps s.rep t.rep

theorem BurnerReach.point {n : Fin 3} {p : Fin 512 → Prop} {s t : State} (h : BurnerReach n p s t) : PointReach s t where
  frame := by rw [h.frame]
  fuel := h.fuel
  channels := h.channels
  told := h.told.mono fun _ _ => trivial
  mode := h.mode
  keeps := h.keeps

theorem LineReach.point {p : Fin 512 → Prop} {s t : State} (h : LineReach p s t) : PointReach s t := (h.burner 0).point

namespace PointReach
variable {s t u : State}

theorem refl (s : State) : PointReach s s := (LineReach.refl (fun _ => True) s).point

theorem settings (h : PointReach s t) : t.settings = s.settings := by rw [h.frame]
theorem clock (h : PointReach s t) : t.clock = s.clock := by rw [h.frame]
theorem inputs (h : PointReach s t) : t.points.inputs = s.points.inputs := by rw [h.frame]
theorem cooler (h : PointReach s t) : t.cooler = s.cooler := by rw [h.frame]
theorem link (h : PointReach s t) : t.link = s.link := by rw [h.frame]

theorem trans (h : PointReach s t) (k : PointReach t u) : PointReach s u where
  frame := by have := h.frame; have := k.frame; grind
  fuel := by have := h.fuel; have := k.fuel; unfold fuelKept at *; grind
  channels c hc := (k.channels c (by rw [h.settings]; exact hc)).trans (h.channels c hc)
  told := h.told.trans k.told
  mode := h.mode.trans k.mode
  keeps := h.keeps.trans k.keeps

theorem foldl {α : Type} (f : State → α → State) (hf : ∀ s x, PointReach s (f s x)) (xs : List α) (s : State) :
    PointReach s (xs.foldl f s) := by
  induction xs generalizing s with
  | nil => exact refl s
  | cons x xs ih => exact (hf s x).trans (ih _)

/-- The frame of the obligations. -/
theorem pointFrame (h : PointReach s t) (k : kilnFollows s t) : pointFrame s t :=
  ⟨h.frame, h.fuel, h.channels, (h.told.keeps h.mode).1, k⟩

end PointReach

theorem point_onPoint (p : Fin 96) (f : PointRec → PointRec) (s : State) : PointReach s (onPoint p f s) :=
  ⟨rfl, rfl, fun _ _ => rfl, .refl _ _, Or.inl ⟨rfl, rfl⟩, .refl _⟩

/-! Limit evaluation -/

/-- The alarm of a limit whose condition changed. -/
def limitMoved (p : Fin 96) (s t : State) (a : Fin 512) : Prop :=
  ∃ j, a = limitAlarm p j ∧ (s.points.points.nth p).cond.nth j ≠ (t.points.points.nth p).cond.nth j

theorem limitAlarm_inj {p : Fin 96} {j k : Fin 4} (h : limitAlarm p j = limitAlarm p k) : j = k := by
  simp only [limitAlarm, Fin.mk.injEq] at h
  omega

theorem point_evalLimit (p : Fin 96) (s : State) (j : Fin 4) : PointReach s (evalLimit p s j) := by
  unfold evalLimit setCond
  simp only
  split
  · split
    · exact .refl s
    · exact (point_onPoint p _ s).trans
        (lines_follow (p := fun _ => True) _ _ _ fun _ _ => trivial).point
  · exact .refl s

theorem point_evalLimits (p : Fin 96) (s : State) : PointReach s (evalLimits p s) :=
  .foldl _ (point_evalLimit p) limitList s

theorem evalLimit_burners (p : Fin 96) (s : State) (j : Fin 4) : (evalLimit p s j).burners = s.burners := by
  unfold evalLimit setCond
  simp only
  split
  · split
    · rfl
    · rw [(lines_follow (p := fun _ => True) _ _ _ fun _ _ => trivial).burners]
      rfl
  · rfl

@[simp] theorem evalLimits_burners (p : Fin 96) (s : State) : (evalLimits p s).burners = s.burners := by
  simp only [evalLimits, limitList, List.foldl, evalLimit_burners]

/-- The condition that the evaluation of limit `j` leaves. -/
def condAfter (s : State) (p : Fin 96) (j : Fin 4) : Bool :=
  let cfg := s.settings.points.nth p
  let x := s.points.points.nth p
  if (cfg.limits.nth j).present then
    limitNext (highLimit j) (x.cond.nth j) x.value.toInt (cfg.limits.nth j).value.toInt cfg.deadband
  else x.cond.nth j

/-- The points after the evaluation of one limit. -/
theorem evalLimit_points (p : Fin 96) (s : State) (j : Fin 4) :
    (evalLimit p s j).points.points =
      s.points.points.upd p fun x => { x with cond := x.cond.put j (condAfter s p j) } := by
  unfold evalLimit setCond condAfter
  simp only
  split
  · split
    · rename_i h
      rw [← h]
      exact (Tab.upd_eq_self _ _ _ (by simp)).symm
    · rw [(lines_follow (p := fun _ => True) _ _ _ fun _ _ => trivial).points]
      rfl
  · exact (Tab.upd_eq_self _ _ _ (by simp)).symm

/-! Air permissives -/

/-- The air permissive depends on settings, points and inputs alone. -/
theorem airOf_congr {s t : State} (n : Fin 3) (hs : t.settings = s.settings) (hp : t.points = s.points) :
    airOf t n = airOf s n := by
  unfold airOf fanRunning freshValue burnerCfg
  rw [hs, hp]

theorem enterBurner_air (n : Fin 3) (st : BurnerState) (s : State) :
    ((enterBurner n st s).burners.nth n).air = (s.burners.nth n).air := by
  simp [enterRec, latch]

theorem lockOut_air (n : Fin 3) (cause : LockoutCause) (s : State) :
    ((lockOut n cause s).burners.nth n).air = (s.burners.nth n).air := by
  by_cases h : burnerState s n = .lockedOut
  · rw [lockOut_of_lockedOut n cause s h]
  · rw [lockOut_burners n cause s h]
    simp [enterRec, latch]

theorem follow_burners (a : Fin 512) (c : Bool) (s : State) : (follow a c s).burners = s.burners := by
  unfold follow
  split <;> rfl

theorem airChanged_air (n : Fin 3) (old new : AirState) (s : State) :
    ((airChanged n old new s).burners.nth n).air = (s.burners.nth n).air := by
  unfold airChanged
  split
  · split
    · simp [purgeAir, follow_burners]
    · split
      · simp [purgeAir, follow_burners]
      · rfl
  · split
    · rfl
    · exact lockOut_air n _ s
  · split
    · rfl
    · exact lockOut_air n _ s
  · split
    · simp [clear_burners]
    · unfold startGrace
      simp only
      split
      · rw [lockOut_air, raise_burners]
        simp
      · simp [raise_burners]
    · exact lockOut_air n _ s
  all_goals rfl

/-- After a re-forming the air permissive stands as R24 gives. -/
@[simp] theorem reformAir_air (n : Fin 3) (s : State) : ((reformAir n s).burners.nth n).air = airOf s n := by
  unfold reformAir
  simp only
  split
  · assumption
  · rw [airChanged_air]
    simp

theorem point_reformAirs (p : Fin 3 → Bool) (s : State) : PointReach s (reformAirs p s) :=
  .foldl _ (fun s n => by
    split
    · exact (burner_reformAir n s).point
    · exact .refl s) burnerList s

/-- A re-forming of some burners' permissives leaves the points and settings. -/
theorem reformAirs_points (p : Fin 3 → Bool) (s : State) : (reformAirs p s).points = s.points := by
  have h (s : State) (n : Fin 3) : (if p n then reformAir n s else s).points = s.points := by
    split
    · exact (burner_reformAir n s).points
    · rfl
  simp only [reformAirs, burnerList, List.foldl, h]

/-- The burners that `p` names have their air permissive re-formed; the others are as they were. -/
theorem reformAirs_spec (p : Fin 3 → Bool) (s : State) (n : Fin 3) :
    (p n = true → ((reformAirs p s).burners.nth n).air = airOf s n) ∧
      (p n = false → (reformAirs p s).burners.nth n = s.burners.nth n) := by
  have reach (k : Fin 3) (u : State) : BurnerReach k (burnerSet k) u (if p k then reformAir k u else u) := by
    split
    · exact burner_reformAir k u
    · exact .refl k _ u
  have step (k : Fin 3) (u : State) :
      (∀ i, i ≠ k → (if p k then reformAir k u else u).burners.nth i = u.burners.nth i) ∧
        (p k = true → ((if p k then reformAir k u else u).burners.nth k).air = airOf u k) ∧
        (p k = false → (if p k then reformAir k u else u) = u) ∧
        ∀ i, airOf (if p k then reformAir k u else u) i = airOf u i :=
    ⟨(reach k u).others, fun h => by simp [h], fun h => by simp [h],
      fun i => airOf_congr i (reach k u).settings (reach k u).points⟩
  simp only [reformAirs, burnerList, List.foldl]
  have h0 := step 0 s
  generalize (if p 0 then reformAir 0 s else s) = s0 at *
  have h1 := step 1 s0
  generalize (if p 1 then reformAir 1 s0 else s0) = s1 at *
  have h2 := step 2 s1
  generalize (if p 2 then reformAir 2 s1 else s1) = s2 at *
  obtain ⟨a0, b0, c0, d0⟩ := h0
  obtain ⟨a1, b1, c1, d1⟩ := h1
  obtain ⟨a2, b2, c2, d2⟩ := h2
  have : n = 0 ∨ n = 1 ∨ n = 2 := by omega
  rcases this with rfl | rfl | rfl
  · rw [a2 0 (by decide), a1 0 (by decide)]
    exact ⟨b0, fun h => by rw [c0 h]⟩
  · rw [a2 1 (by decide)]
    exact ⟨fun h => by rw [b1 h, d0], fun h => by rw [c1 h, a0 1 (by decide)]⟩
  · exact ⟨fun h => by rw [b2 h, d1, d0], fun h => by rw [c2 h, a1 2 (by decide), a0 2 (by decide)]⟩

/-! Users, samples, forces -/

theorem lines_reformInlet (p : Fin 96) (s : State) : LineReach lineSet s (reformInlet p s) := lines_reformLines _ s

theorem point_pointUsers (p : Fin 96) (s : State) : PointReach s (pointUsers p s) :=
  (point_reformAirs _ s).trans (lines_reformInlet p _).point

@[simp] theorem pointUsers_points (p : Fin 96) (s : State) : (pointUsers p s).points = s.points := by
  unfold pointUsers
  rw [(lines_reformInlet p _).points, reformAirs_points]

@[simp] theorem pointUsers_burners (p : Fin 96) (s : State) :
    (pointUsers p s).burners = (reformAirs (usesPoint s p) s).burners := by
  unfold pointUsers
  rw [(lines_reformInlet p _).burners]

theorem point_goodSample (p : Fin 96) (v : Word) (s : State) : PointReach s (goodSample p v s) :=
  (point_onPoint p _ s).trans ((point_evalLimits p _).trans (point_pointUsers p _))

theorem point_badSample (p : Fin 96) (s : State) : PointReach s (badSample p s) :=
  (point_onPoint p _ s).trans (point_pointUsers p _)

theorem point_takeEntry (s : State) (e : SampleEntry) : PointReach s (takeEntry s e) := by
  unfold takeEntry
  split
  · split
    · exact point_goodSample _ _ s
    · split
      · exact point_badSample _ s
      · exact .refl s
  · exact .refl s

theorem point_setForce (p : Fin 96) (v : Word) (s : State) : PointReach s (setForce p v s) :=
  (point_onPoint p _ s).trans ((point_evalLimits p _).trans (point_pointUsers p _))

theorem point_removeForce (p : Fin 96) (s : State) : PointReach s (removeForce p s) := by
  have h (u : State) (c : Prop) [Decidable c] : PointReach u (pointUsers p (if c then evalLimits p u else u)) := by
    split
    · exact (point_evalLimits p u).trans (point_pointUsers p _)
    · exact point_pointUsers p u
  unfold removeForce
  split
  · exact (point_onPoint p _ s).trans (h _ _)
  · exact .refl s

end Sys2Proof.Machine
end

