-- ==== Sys2Proof/Laws/KilnFrames.lean ====
section
/-! SUPPORT. The kiln mode follows the burners: the relation composes over the events of one command, and every operation that
changes the state of a burner gives it. -/

namespace Sys2Proof.Machine

/-- An operation that leaves the mode record and every burner's state. -/
theorem kilnFollows_of_eq {s t : State} (hk : t.kiln = s.kiln) (hb : ∀ n, burnerState t n = burnerState s n) :
    kilnFollows s t := by
  unfold kilnFollows cameToRest
  simp only [hk, hb]
  cases s.kiln.mode <;> simp

theorem kilnFollows_refl (s : State) : kilnFollows s s := kilnFollows_of_eq rfl fun _ => rfl

/-- Two operations in turn, where each burner changes its state in one of them alone, or in both without a rest between. -/
theorem kilnFollows_trans {s t u : State} (h : kilnFollows s t) (k : kilnFollows t u)
    (hb : ∀ n, burnerState t n = burnerState s n ∨ burnerState u n = burnerState t n ∨
      ((burnerState t n).atRest = false ∧ burnerState u n ≠ burnerState s n)) : kilnFollows s u := by
  have locked : BurnerState.atRest .lockedOut = true := rfl
  unfold kilnFollows cameToRest at *
  cases hs : s.kiln.mode <;> simp only [hs] at h ⊢
  · simp only [h, hs] at k
    exact k
  · simp only [h, hs] at k
    exact k
  · have h0 := hb 0
    by_cases c : burnerState s 0 ≠ .lockedOut ∧ burnerState t 0 = .lockedOut
    · have e := h.1 c
      simp only [e] at k
      grind
    · have e := h.2 c
      simp only [e, hs] at k
      grind
  · simp only [h, hs] at k
    exact k
  · by_cases c : (∃ n, s.kiln.pendingShutdown.nth n = true) ∧ ∀ n, s.kiln.pendingShutdown.nth n = true →
      burnerState t n ≠ burnerState s n ∧ (burnerState t n).atRest = true
    · have e := h.1 c
      simp only [e] at k
      refine ⟨fun _ => k, fun d => absurd ⟨c.1, fun n w => ?_⟩ d⟩
      have := hb n
      have := c.2 n w
      grind
    · obtain ⟨e, p⟩ := h.2 c
      simp only [e] at k
      have rest (n : Fin 3) (w : s.kiln.pendingShutdown.nth n = true) :
          (burnerState u n ≠ burnerState s n ∧ (burnerState u n).atRest = true) ↔
            (t.kiln.pendingShutdown.nth n = true →
              burnerState u n ≠ burnerState t n ∧ (burnerState u n).atRest = true) := by
        have := hb n
        have := p n
        grind
      have waits (n : Fin 3) := p n
      constructor
      · rintro ⟨⟨m, w⟩, all⟩
        refine k.1 ⟨?_, fun n w' => (rest n ((p n).1 w').1).1 (all n ((p n).1 w').1) w'⟩
        by_contra none
        exact c ⟨⟨m, w⟩, fun n w' => by
          by_contra q
          exact none ⟨n, (p n).2 ⟨w', q⟩⟩⟩
      · intro d
        obtain ⟨e', p'⟩ := k.2 fun ⟨⟨m, w⟩, all⟩ =>
          d ⟨⟨m, ((p m).1 w).1⟩, fun n w' => (rest n w').2 fun w'' => all n w''⟩
        refine ⟨e', fun n => ?_⟩
        rw [p' n, p n]
        have := rest n
        have := p n
        grind

/-- What `kilnAfter` gives the mode record after one change of burner `n`. -/
theorem kilnFollows_of_after {s t : State} (n : Fin 3) (st : BurnerState) (hk : t.kiln = kilnAfter n st s.kiln)
    (hn : burnerState t n = st) (hne : st ≠ burnerState s n) (ho : ∀ k, k ≠ n → burnerState t k = burnerState s k) :
    kilnFollows s t := by
  have ho' (k : Fin 3) (h : burnerState t k ≠ burnerState s k) : k = n := by
    by_contra c
    exact h (ho k c)
  unfold kilnAfter at hk
  unfold kilnFollows cameToRest
  cases hs : s.kiln.mode <;> simp only [hs] at hk ⊢
  · simpa using hk
  · simpa using hk
  · have := ho' 0
    grind
  · simpa using hk
  · simp only [reduceCtorEq, and_false, if_false, true_and, beq_iff_eq, Tab.count_eq_zero, Tab.nth_put] at hk
    by_cases r : st.atRest = true ∧ s.kiln.pendingShutdown.nth n = true
    · rw [if_pos r] at hk
      by_cases e : ∀ i, (if i = n then false else s.kiln.pendingShutdown.nth i) = false
      · rw [if_pos e] at hk
        refine ⟨fun _ => hk, fun c => absurd ⟨⟨n, r.2⟩, fun k w => ?_⟩ c⟩
        have := e k
        grind
      · rw [if_neg e] at hk
        simp only [not_forall] at e
        obtain ⟨m, e⟩ := e
        refine ⟨fun c => ?_, fun _ => ⟨by rw [hk], fun k => ?_⟩⟩
        · have := ho' m
          have := c.2 m
          grind
        · have := ho' k
          rw [hk]
          simp only [Tab.nth_put]
          grind
    · rw [if_neg r] at hk
      refine ⟨fun c => ?_, fun _ => ⟨by rw [hk, hs], fun k => ?_⟩⟩
      · obtain ⟨⟨m, w⟩, all⟩ := c
        have := ho' m
        have := all m w
        grind
      · have := ho' k
        rw [hk]
        grind

/-! Entries -/

/-- The burner states after a change of burner `n`'s record. -/
theorem burnerState_upd (n k : Fin 3) (f : BurnerRec → BurnerRec) {s t : State} (h : t.burners = s.burners.upd n f) :
    burnerState t k = if k = n then (f (s.burners.nth n)).state else burnerState s k := by
  unfold burnerState
  rw [h, Tab.nth_upd]
  split <;> simp_all

theorem kiln_enterBurner (n : Fin 3) (st : BurnerState) (s : State) (h : st ≠ burnerState s n) :
    kilnFollows s (enterBurner n st s) := by
  have hb (k : Fin 3) := burnerState_upd n k _ (enterBurner_burners n st s)
  refine kilnFollows_of_after n st (enterBurner_kiln n st s) ?_ h fun k hk => ?_
  · rw [hb n, if_pos rfl]
    rfl
  · rw [hb k, if_neg hk]

theorem kiln_lockOut (n : Fin 3) (cause : LockoutCause) (s : State) : kilnFollows s (lockOut n cause s) := by
  by_cases h : burnerState s n = .lockedOut
  · rw [lockOut_of_lockedOut n cause s h]
    exact kilnFollows_refl s
  · have hb (k : Fin 3) := burnerState_upd n k _ (lockOut_burners n cause s h)
    refine kilnFollows_of_after n .lockedOut (lockOut_kiln n cause s h) ?_ (Ne.symm h) fun k hk => ?_
    · rw [hb n, if_pos rfl]
      rfl
    · rw [hb k, if_neg hk]

theorem kiln_endPostPurge (n : Fin 3) (s : State) (h : burnerState s n ≠ .idle) : kilnFollows s (endPostPurge n s) := by
  unfold endPostPurge
  split
  · exact kiln_lockOut n _ s
  · exact kiln_enterBurner n _ s (Ne.symm h)

/-- A step that leaves the mode record and the burner states, before one that the kiln mode follows. -/
theorem kilnFollows_after {s t u : State} (hk : t.kiln = s.kiln) (hb : ∀ n, burnerState t n = burnerState s n)
    (h : kilnFollows t u) : kilnFollows s u :=
  kilnFollows_trans (kilnFollows_of_eq hk hb) h fun n => Or.inl (hb n)

/-- A step that leaves the mode record and the burner states, after one that the kiln mode follows. -/
theorem kilnFollows_before {s t u : State} (h : kilnFollows s t) (hk : u.kiln = t.kiln)
    (hb : ∀ n, burnerState u n = burnerState t n) : kilnFollows s u :=
  kilnFollows_trans h (kilnFollows_of_eq hk hb) fun n => Or.inr (Or.inl (hb n))

/-- A change of a burner's record that leaves its state. -/
theorem kiln_onBurner (n : Fin 3) (f : BurnerRec → BurnerRec) (s : State)
    (h : (f (s.burners.nth n)).state = burnerState s n) :
    (onBurner n f s).kiln = s.kiln ∧ ∀ k, burnerState (onBurner n f s) k = burnerState s k := by
  refine ⟨rfl, fun k => ?_⟩
  rw [burnerState_upd n k f rfl]
  split
  · subst k
    exact h
  · rfl

/-- A line operation leaves the mode record and the burner states. -/
theorem LineReach.quiet {p : Fin 512 → Prop} {s t : State} (h : LineReach p s t) :
    t.kiln = s.kiln ∧ ∀ n, burnerState t n = burnerState s n :=
  ⟨h.kiln, fun n => by unfold burnerState; rw [h.burners]⟩

theorem kiln_ofLines {p : Fin 512 → Prop} {s t : State} (h : LineReach p s t) : kilnFollows s t :=
  kilnFollows_of_eq h.quiet.1 h.quiet.2

theorem atRest_endPostPurge (n : Fin 3) (s : State) : (burnerState (endPostPurge n s) n).atRest = true := by
  unfold endPostPurge
  split
  · by_cases h : burnerState s n = .lockedOut
    · rw [lockOut_of_lockedOut n _ s h, h]
      rfl
    · rw [burnerState_upd n n _ (lockOut_burners n _ s h), if_pos rfl]
      rfl
  · rw [burnerState_upd n n _ (enterBurner_burners n _ s), if_pos rfl]
    rfl

theorem kiln_enterStopping (n : Fin 3) (s : State) (h : (burnerState s n).atRest = false)
    (hs : burnerState s n ≠ .stopping) : kilnFollows s (enterStopping n s) := by
  have e (k : Fin 3) := burnerState_upd n k _ (enterBurner_burners n .stopping s)
  have en : burnerState (enterBurner n .stopping s) n = .stopping := by
    rw [e n, if_pos rfl]
    rfl
  unfold enterStopping
  simp only
  split
  · refine kilnFollows_trans (kiln_enterBurner n _ s (Ne.symm hs)) (kiln_endPostPurge n _ (by rw [en]; decide)) fun k => ?_
    by_cases hk : k = n
    · subst k
      refine Or.inr (Or.inr ⟨by rw [en]; rfl, fun c => ?_⟩)
      rw [← c, atRest_endPostPurge] at h
      cases h
    · exact Or.inl (by rw [e k, if_neg hk])
  · exact kiln_enterBurner n _ s (Ne.symm hs)

/-- A stop of burner `n` (R36). -/
theorem kiln_stopBurner (n : Fin 3) (s : State) : kilnFollows s (stopBurner n s) := by
  unfold stopBurner
  split <;> rename_i h
  · exact kiln_enterBurner n _ s (by rw [h]; decide)
  · exact kiln_enterBurner n _ s (by rw [h]; decide)
  · exact kiln_enterStopping n s (by rw [h]; rfl) (by rw [h]; decide)
  · exact kiln_enterStopping n s (by rw [h]; rfl) (by rw [h]; decide)
  all_goals exact kilnFollows_refl s

/-! Air permissive and flame windows -/

theorem kiln_startGrace (n : Fin 3) (s : State) : kilnFollows s (startGrace n s) := by
  have h := kiln_onBurner n (fun b => { b with grace := some (Config.sec b.latched.staleGrace) }) s rfl
  unfold startGrace
  generalize onBurner n (fun b => { b with grace := some (Config.sec b.latched.staleGrace) }) s = u at *
  have q := (lines_raise (burnerAlarm n 5) u (burnerSet_alarm n 5)).quiet
  simp only
  split
  · exact kilnFollows_after h.1 h.2 (kilnFollows_after q.1 q.2 (kiln_lockOut n _ _))
  · exact kilnFollows_after h.1 h.2 (kilnFollows_of_eq q.1 q.2)

theorem kiln_purgeAir (n : Fin 3) (permitted : Bool) (s : State) : kilnFollows s (purgeAir n permitted s) := by
  have h := kiln_onBurner n (fun b =>
    { b with stepRunning := permitted, stepLeft := Config.sec b.latched.purgeTime }) s rfl
  exact kilnFollows_after h.1 h.2 (kiln_ofLines (lines_follow _ _ _ (burnerSet_alarm n 12)))

theorem kiln_airChanged (n : Fin 3) (old new : AirState) (s : State) : kilnFollows s (airChanged n old new s) := by
  unfold airChanged
  split
  · split
    · exact kiln_purgeAir n _ s
    · split
      · exact kiln_purgeAir n _ s
      · exact kilnFollows_refl s
  · split
    · exact kilnFollows_refl s
    · exact kiln_lockOut n _ s
  · split
    · exact kilnFollows_refl s
    · exact kiln_lockOut n _ s
  · split
    · have h := kiln_onBurner n (fun b => { b with grace := none }) s rfl
      exact kilnFollows_after h.1 h.2 (kiln_ofLines (lines_clear _ _ (burnerSet_alarm n 5)))
    · exact kiln_startGrace n s
    · exact kiln_lockOut n _ s
  all_goals exact kilnFollows_refl s

/-- A re-forming of burner `n`'s air permissive (R24). -/
theorem kiln_reformAir (n : Fin 3) (s : State) : kilnFollows s (reformAir n s) := by
  unfold reformAir
  simp only
  split
  · exact kilnFollows_refl s
  · have h := kiln_onBurner n (fun b => { b with air := airOf s n }) s rfl
    exact kilnFollows_after h.1 h.2 (kiln_airChanged n _ _ _)

/-- A re-forming of some burners' air permissives. -/
theorem kiln_reformAirs (p : Fin 3 → Bool) (s : State) : kilnFollows s (reformAirs p s) := by
  have step (k : Fin 3) (u : State) : kilnFollows u (if p k then reformAir k u else u) ∧
      ∀ i, i ≠ k → burnerState (if p k then reformAir k u else u) i = burnerState u i := by
    split
    · exact ⟨kiln_reformAir k u, fun i hi => by unfold burnerState; rw [(burner_reformAir k u).others i hi]⟩
    · exact ⟨kilnFollows_refl u, fun _ _ => rfl⟩
  simp only [reformAirs, burnerList, List.foldl]
  have h0 := step 0 s
  generalize (if p 0 then reformAir 0 s else s) = s0 at *
  have h1 := step 1 s0
  generalize (if p 1 then reformAir 1 s0 else s0) = s1 at *
  have h2 := step 2 s1
  refine kilnFollows_trans (kilnFollows_trans h0.1 h1.1 fun n => ?_) h2.1 fun n => ?_
  · by_cases c : n = 0
    · exact Or.inr (Or.inl (h1.2 n (by rw [c]; decide)))
    · exact Or.inl (h0.2 n c)
  · by_cases c : n = 2
    · exact Or.inl (by rw [h1.2 n (by rw [c]; decide), h0.2 n (by rw [c]; decide)])
    · exact Or.inr (Or.inl (h2.2 n c))

theorem kiln_flameActs (n : Fin 3) (judged : Bool) (s : State) : kilnFollows s (flameActs n judged s) := by
  unfold flameActs
  simp only
  split <;> first
    | exact kilnFollows_refl s
    | (split <;> first
        | exact kiln_lockOut n _ s
        | exact kilnFollows_refl s
        | (rename_i h _; exact kiln_enterBurner n _ s (by unfold burnerState; rw [h]; decide)))

theorem kiln_faultAlarm (n : Fin 3) (k : Fin 16) (old new : Verdict) (s : State) :
    kilnFollows s (faultAlarm (burnerAlarm n k) old new s) ∧
      (faultAlarm (burnerAlarm n k) old new s).kiln = s.kiln ∧
      ∀ i, burnerState (faultAlarm (burnerAlarm n k) old new s) i = burnerState s i := by
  have r := lines_raise (burnerAlarm n k) s (burnerSet_alarm n k)
  have c := lines_clear (burnerAlarm n k) s (burnerSet_alarm n k)
  unfold faultAlarm
  split
  · split
    · exact ⟨kilnFollows_refl s, rfl, fun _ => rfl⟩
    · exact ⟨kiln_ofLines r, r.quiet⟩
  · exact ⟨kiln_ofLines c, c.quiet⟩

/-- A flame window expiry (R20 to R23, R32 to R34). -/
theorem kiln_flameWindow (n : Fin 3) (s : State) : kilnFollows s (flameWindow n s) := by
  have h0 := kiln_onBurner n (fun _ => { judgeWindows (s.burners.nth n) with unjudged := false }) s rfl
  have h3 (u : State) (c : Prop) [Decidable c] :
      (if c then clear (burnerAlarm n 9) u else u).kiln = u.kiln ∧
        ∀ i, burnerState (if c then clear (burnerAlarm n 9) u else u) i = burnerState u i := by
    split
    · exact (lines_clear _ u (burnerSet_alarm n 9)).quiet
    · exact ⟨rfl, fun _ => rfl⟩
  refine kilnFollows_after h0.1 h0.2 (kilnFollows_after (kiln_faultAlarm n 7 _ _ _).2.1 (kiln_faultAlarm n 7 _ _ _).2.2
    (kilnFollows_after (kiln_faultAlarm n 8 _ _ _).2.1 (kiln_faultAlarm n 8 _ _ _).2.2
      (kilnFollows_after (h3 _ _).1 (h3 _ _).2 (kiln_flameActs n _ _))))

/-! Points and E-STOP -/

theorem quiet_evalLimit (p : Fin 96) (s : State) (j : Fin 4) :
    (evalLimit p s j).kiln = s.kiln ∧ (evalLimit p s j).burners = s.burners := by
  refine ⟨?_, evalLimit_burners p s j⟩
  unfold evalLimit setCond
  simp only
  split
  · split
    · rfl
    · exact (lines_follow (p := fun _ => True) _ _ _ fun _ _ => trivial).kiln
  · rfl

theorem quiet_evalLimits (p : Fin 96) (s : State) :
    (evalLimits p s).kiln = s.kiln ∧ ∀ n, burnerState (evalLimits p s) n = burnerState s n := by
  refine ⟨?_, fun n => by unfold burnerState; rw [evalLimits_burners]⟩
  simp only [evalLimits, limitList, List.foldl, (quiet_evalLimit _ _ _).1]

/-- The users of point `p` told. -/
theorem kiln_pointUsers (p : Fin 96) (s : State) : kilnFollows s (pointUsers p s) :=
  kilnFollows_before (kiln_reformAirs _ s) (lines_reformInlet p _).quiet.1 (lines_reformInlet p _).quiet.2

/-- The limits of point `p` evaluated and its users told. -/
theorem kiln_evalUsers (p : Fin 96) (s : State) : kilnFollows s (pointUsers p (evalLimits p s)) := by
  have q := quiet_evalLimits p s
  generalize evalLimits p s = u at *
  exact kilnFollows_after q.1 q.2 (kiln_pointUsers p u)

/-- A change of a point, before an operation that the kiln mode follows. -/
theorem kiln_onPoint {p : Fin 96} {f : PointRec → PointRec} {s u : State} (h : kilnFollows (onPoint p f s) u) :
    kilnFollows s u :=
  kilnFollows_after (onPoint_kiln p f s) (fun n => by unfold burnerState; rw [onPoint_burners]) h

theorem kiln_takeEntry (s : State) (e : SampleEntry) : kilnFollows s (takeEntry s e) := by
  unfold takeEntry
  split
  · split
    · exact kiln_onPoint (kiln_evalUsers _ _)
    · split
      · exact kiln_onPoint (kiln_pointUsers _ _)
      · exact kilnFollows_refl s
  · exact kilnFollows_refl s

theorem kiln_setForce (p : Fin 96) (v : Word) (s : State) : kilnFollows s (setForce p v s) :=
  kiln_onPoint (kiln_evalUsers p _)

theorem kiln_removeForce (p : Fin 96) (s : State) : kilnFollows s (removeForce p s) := by
  have h (u : State) (c : Prop) [Decidable c] : kilnFollows u (pointUsers p (if c then evalLimits p u else u)) := by
    split
    · exact kiln_evalUsers p u
    · exact kiln_pointUsers p u
  unfold removeForce
  split
  · exact kiln_onPoint (h _ _)
  · exact kilnFollows_refl s

/-- The lockouts of E-STOP, burner 0 first (R37). -/
theorem kiln_lockOuts (cause : LockoutCause) (s : State) :
    kilnFollows s (burnerList.foldl (fun s n => lockOut n cause s) s) := by
  have h (n : Fin 3) (u : State) (i : Fin 3) (hi : i ≠ n) : burnerState (lockOut n cause u) i = burnerState u i := by
    unfold burnerState
    rw [(burner_lockOut n cause u).others i hi]
  simp only [burnerList, List.foldl]
  refine kilnFollows_trans (kilnFollows_trans (kiln_lockOut 0 _ _) (kiln_lockOut 1 _ _) fun n => ?_)
    (kiln_lockOut 2 _ _) fun n => ?_
  · by_cases c : n = 0
    · exact Or.inr (Or.inl (h 1 _ n (by rw [c]; decide)))
    · exact Or.inl (h 0 _ n c)
  · by_cases c : n = 2
    · exact Or.inl (by rw [h 1 _ n (by rw [c]; decide), h 0 _ n (by rw [c]; decide)])
    · exact Or.inr (Or.inl (h 2 _ n c))

end Sys2Proof.Machine
end

