-- ==== Sys2Proof/Laws/PerInstr.lean ====
section
/-! SUPPORT. One lemma per command: the frame that carries a well-formed request has a body of a legal length (R167). -/

namespace Sys2Proof.Laws.Framed
open Sys2Proof

/-- A well-formed command that is a request has a body of 2 to 250 bytes (R167). -/
def Statement (i : Instr) : Prop :=
  i.wf = true → ∀ body, i.body = some body → 2 ≤ body.length ∧ body.length ≤ 250

/-- A body of `k` bytes, code and tag among them, is of a legal length. -/
theorem fixed (i : Instr) (b : List Byte) (h : i.body = some b) (l : 2 ≤ b.length ∧ b.length ≤ 250) : Statement i := by
  intro _ body hb
  rw [h] at hb
  cases hb
  exact l

/-- A command that is no request has no body. -/
theorem none_ (i : Instr) (h : i.body = none) : Statement i := by
  intro _ body hb
  rw [h] at hb
  cases hb

theorem beBytes_length (k n : Nat) : (Machine.beBytes k n).length = k := by
  induction k generalizing n with
  | zero => rfl
  | succ k ih => simp [Machine.beBytes, ih]

theorem entries_length (es : List SampleEntry) : (es.flatMap SampleEntry.bytes).length = 6 * es.length := by
  induction es with
  | nil => rfl
  | cons e es ih => simp [List.flatMap_cons, ih, SampleEntry.bytes, beBytes_length]; omega

theorem refs_length (rs : List Half) : (rs.flatMap fun h => Machine.beBytes 2 h.toNat).length = 2 * rs.length := by
  induction rs with
  | nil => rfl
  | cons e es ih => simp [List.flatMap_cons, ih, beBytes_length]; omega

theorem identify (tag : Byte) : Statement (.identify tag) := fixed _ _ rfl (by simp)
theorem status (tag : Byte) : Statement (.status tag) := fixed _ _ rfl (by simp)
theorem clearFlags (tag : Byte) : Statement (.clearFlags tag) := fixed _ _ rfl (by simp)
theorem setClock (tag : Byte) (clock : Word) : Statement (.setClock tag clock) := fixed _ _ rfl (by simp [beBytes_length])
theorem restart (tag : Byte) : Statement (.restart tag) := fixed _ _ rfl (by simp)
theorem putSamples (tag count : Byte) (entries : List SampleEntry) : Statement (.putSamples tag count entries) := by
  intro wf body hb
  simp only [Instr.wf, Bool.and_eq_true, decide_eq_true_eq, beq_iff_eq] at wf
  simp only [Instr.body, Option.some.injEq] at hb
  subst hb
  simp only [List.length_append, entries_length, List.length_cons, List.length_nil]
  omega
theorem readPoints (tag first count : Byte) : Statement (.readPoints tag first count) := fixed _ _ rfl (by simp)
theorem forcePoint (tag point : Byte) (value : Word) : Statement (.forcePoint tag point value) := fixed _ _ rfl (by simp [beBytes_length])
theorem unforcePoint (tag point : Byte) : Statement (.unforcePoint tag point) := fixed _ _ rfl (by simp)
theorem forceInputs (tag : Byte) (mask data : Half) : Statement (.forceInputs tag mask data) := fixed _ _ rfl (by simp [beBytes_length])
theorem setMode (tag mode : Byte) : Statement (.setMode tag mode) := fixed _ _ rfl (by simp)
theorem burnerStart (tag burner : Byte) : Statement (.burnerStart tag burner) := fixed _ _ rfl (by simp)
theorem burnerStop (tag burner : Byte) : Statement (.burnerStop tag burner) := fixed _ _ rfl (by simp)
theorem resetLockout (tag burner : Byte) : Statement (.resetLockout tag burner) := fixed _ _ rfl (by simp)
theorem setDemand (tag burner : Byte) (target : Word) : Statement (.setDemand tag burner target) := fixed _ _ rfl (by simp [beBytes_length])
theorem readBurners (tag : Byte) : Statement (.readBurners tag) := fixed _ _ rfl (by simp)
theorem lineOff (tag line : Byte) : Statement (.lineOff tag line) := fixed _ _ rfl (by simp)
theorem lineAuto (tag line : Byte) : Statement (.lineAuto tag line) := fixed _ _ rfl (by simp)
theorem lineManual (tag line : Byte) (rate : Half) : Statement (.lineManual tag line rate) := fixed _ _ rfl (by simp [beBytes_length])
theorem resetLine (tag line : Byte) : Statement (.resetLine tag line) := fixed _ _ rfl (by simp)
theorem readLines (tag : Byte) : Statement (.readLines tag) := fixed _ _ rfl (by simp)
theorem coolerStart (tag : Byte) : Statement (.coolerStart tag) := fixed _ _ rfl (by simp)
theorem coolerStop (tag : Byte) : Statement (.coolerStop tag) := fixed _ _ rfl (by simp)
theorem setFans (tag : Byte) (refs : List Half) : Statement (.setFans tag refs) := by
  intro wf body hb
  simp only [Instr.wf, beq_iff_eq] at wf
  simp only [Instr.body, Option.some.injEq] at hb
  subst hb
  simp only [List.length_append, refs_length, List.length_cons, List.length_nil]
  omega
theorem readCooler (tag : Byte) : Statement (.readCooler tag) := fixed _ _ rfl (by simp)
theorem ackAlarms (tag : Byte) (base : Half) (e : Byte) : Statement (.ackAlarms tag base e) := fixed _ _ rfl (by simp [beBytes_length])
theorem shelveAlarms (tag : Byte) (base : Half) (e : Byte) (minutes : Half) : Statement (.shelveAlarms tag base e minutes) := fixed _ _ rfl (by simp [beBytes_length])
theorem unshelveAlarms (tag : Byte) (base : Half) (e : Byte) : Statement (.unshelveAlarms tag base e) := fixed _ _ rfl (by simp [beBytes_length])
theorem readAlarms (tag : Byte) (base : Half) (e : Byte) (offset : Half) : Statement (.readAlarms tag base e offset) := fixed _ _ rfl (by simp [beBytes_length])
theorem readFirstOut (tag : Byte) : Statement (.readFirstOut tag) := fixed _ _ rfl (by simp)
theorem rearmFirstOut (tag group : Byte) : Statement (.rearmFirstOut tag group) := fixed _ _ rfl (by simp)
theorem fetchNotices (tag n : Byte) : Statement (.fetchNotices tag n) := fixed _ _ rfl (by simp)
theorem closeShift (tag : Byte) : Statement (.closeShift tag) := fixed _ _ rfl (by simp)
theorem holdReport (tag : Byte) (seq : Word) : Statement (.holdReport tag seq) := fixed _ _ rfl (by simp [beBytes_length])
theorem releaseReport (tag : Byte) (seq : Word) : Statement (.releaseReport tag seq) := fixed _ _ rfl (by simp [beBytes_length])
theorem readReport (tag : Byte) (seq : Word) (part : Byte) : Statement (.readReport tag seq part) := fixed _ _ rfl (by simp [beBytes_length])
theorem readOpenShift (tag : Byte) : Statement (.readOpenShift tag) := fixed _ _ rfl (by simp)
theorem readSetting (tag group : Byte) (inst : Half) (item : Byte) : Statement (.readSetting tag group inst item) := fixed _ _ rfl (by simp [beBytes_length])
theorem writeSetting (tag group : Byte) (inst : Half) (item : Byte) (value : Word) : Statement (.writeSetting tag group inst item value) := fixed _ _ rfl (by simp [beBytes_length])
theorem saveSettings (tag : Byte) : Statement (.saveSettings tag) := fixed _ _ rfl (by simp)
theorem setLock (tag level : Byte) : Statement (.setLock tag level) := fixed _ _ rfl (by simp)
theorem unknownRequestCode (code tag : Byte) : Statement (.unknownRequestCode code tag) := fixed _ _ rfl (by simp)
theorem validFrame (frame : List Byte) : Statement (.validFrame frame) := none_ _ rfl
theorem frameDiscard (cause : DiscardCause) : Statement (.frameDiscard cause) := none_ _ rfl
theorem linkIdleHunt : Statement .linkIdleHunt := none_ _ rfl
theorem replySent : Statement .replySent := none_ _ rfl
theorem linkSilenceExpiry : Statement .linkSilenceExpiry := none_ _ rfl
theorem powerOn (baud1 baud0 : Bool) : Statement (.powerOn baud1 baud0) := none_ _ rfl
theorem resetPin (baud1 baud0 : Bool) : Statement (.resetPin baud1 baud0) := none_ _ rfl
theorem restartReset : Statement .restartReset := none_ _ rfl
theorem supervisionExpiry : Statement .supervisionExpiry := none_ _ rfl
theorem dinEdge (i : Fin 16) (high : Bool) : Statement (.dinEdge i high) := none_ _ rfl
theorem dinDebounceExpiry (i : Fin 16) : Statement (.dinDebounceExpiry i) := none_ _ rfl
theorem keyEdge (high : Bool) : Statement (.keyEdge high) := none_ _ rfl
theorem keyDebounceExpiry : Statement .keyDebounceExpiry := none_ _ rfl
theorem estopUnhealthy : Statement .estopUnhealthy := none_ _ rfl
theorem estopPinHigh : Statement .estopPinHigh := none_ _ rfl
theorem estopHealthy : Statement .estopHealthy := none_ _ rfl
theorem scannerEdge (n : Fin 3) (sc : Scanner) : Statement (.scannerEdge n sc) := none_ _ rfl
theorem flameWindowExpiry (n : Fin 3) : Statement (.flameWindowExpiry n) := none_ _ rfl
theorem disagreementExpiry (n : Fin 3) : Statement (.disagreementExpiry n) := none_ _ rfl
theorem purgeExpiry (n : Fin 3) : Statement (.purgeExpiry n) := none_ _ rfl
theorem pilotTrialExpiry (n : Fin 3) : Statement (.pilotTrialExpiry n) := none_ _ rfl
theorem mainTrialExpiry (n : Fin 3) : Statement (.mainTrialExpiry n) := none_ _ rfl
theorem postPurgeExpiry (n : Fin 3) : Statement (.postPurgeExpiry n) := none_ _ rfl
theorem graceExpiry (n : Fin 3) : Statement (.graceExpiry n) := none_ _ rfl
theorem controlPeriodExpiry : Statement .controlPeriodExpiry := none_ _ rfl
theorem syncEdge : Statement .syncEdge := none_ _ rfl
theorem feedbackWindowExpiry (m : Fin 6) : Statement (.feedbackWindowExpiry m) := none_ _ rfl
theorem cycleEnd (c : Fin 24) : Statement (.cycleEnd c) := none_ _ rfl
theorem freqHalfCycle (c : Fin 24) : Statement (.freqHalfCycle c) := none_ _ rfl
theorem dutyHighEnd (c : Fin 24) : Statement (.dutyHighEnd c) := none_ _ rfl
theorem countEdge (c : Fin 24) : Statement (.countEdge c) := none_ _ rfl
theorem coolerPeriodExpiry : Statement .coolerPeriodExpiry := none_ _ rfl
theorem shelveMinuteExpiry : Statement .shelveMinuteExpiry := none_ _ rfl
theorem floodSecondExpiry : Statement .floodSecondExpiry := none_ _ rfl
theorem shiftTimerExpiry : Statement .shiftTimerExpiry := none_ _ rfl
theorem plantClockSecond : Statement .plantClockSecond := none_ _ rfl
theorem storeComplete (verifyGood : Bool) : Statement (.storeComplete verifyGood) := none_ _ rfl

end Sys2Proof.Laws.Framed
end

