-- ==== Sys2Proof/Laws/Posting.lean ====
section
/-! SUPPORT. What every operation of the reporting side adds to the Notice Queues: unless a notice is lost the two lists only
grow at their ends and queued cells of other kinds than ALARM stay (R147, R148); and with it, that a notice once posted stays
posted to the end of its event. -/

namespace Sys2Proof.Machine

/-- From `r` to `r'` no notice was lost, as the lost count shows. -/
def Full (r r' : Reporting) : Prop :=
  Listed r.notices ∧ Linked r.notices ∧ r.notices.lost < 65535 ∧ r'.notices.lost = r.notices.lost

/-- From `r` to `r'` the queues only grow, unless a notice is lost. -/
structure Adds (r r' : Reporting) : Prop where
  keeps : Keeps r r'
  lost : min 65535 r.notices.lost ≤ r'.notices.lost
  urgent : Full r r' → r.notices.urgent <+: r'.notices.urgent
  routine : Full r r' → r.notices.routine <+: r'.notices.routine
  cells : Full r r' → ∀ c, Queued r.notices c → cellAlarm (r.notices.cells.nth c) = none →
    r'.notices.cells.nth c = r.notices.cells.nth c

namespace Adds
variable {r r' r'' : Reporting}

/-- A step over which nothing is lost splits into two such steps. -/
theorem full_split (h : Adds r r') (k : Adds r' r'') (f : Full r r'') : Full r r' ∧ Full r' r'' := by
  obtain ⟨f1, f2, f3, f4⟩ := f
  have a := h.lost
  have b := k.lost
  have e : r'.notices.lost = r.notices.lost := by omega
  exact ⟨⟨f1, f2, f3, e⟩, ⟨h.keeps.listed f1, h.keeps.linked f1 f2, by omega, by omega⟩⟩

/-- A step that leaves the queues. -/
theorem ofKeeps (h : Keeps r r') (k : r'.notices = r.notices) : Adds r r' where
  keeps := h
  lost := by rw [k]; omega
  urgent := fun _ => by rw [k]
  routine := fun _ => by rw [k]
  cells := fun _ c _ _ => by rw [k]

theorem refl (r : Reporting) : Adds r r := .ofKeeps (.refl r) rfl

theorem stays (h : Adds r r') (f : Full r r') {c : Fin 256} (hc : Queued r.notices c) : Queued r'.notices c :=
  hc.imp (fun x => (h.urgent f).subset x) fun x => (h.routine f).subset x

theorem trans (h : Adds r r') (k : Adds r' r'') : Adds r r'' where
  keeps := h.keeps.trans k.keeps
  lost := by have a := h.lost; have b := k.lost; omega
  urgent := fun f => (h.urgent (h.full_split k f).1).trans (k.urgent (h.full_split k f).2)
  routine := fun f => (h.routine (h.full_split k f).1).trans (k.routine (h.full_split k f).2)
  cells := fun f c hc ha => by
    obtain ⟨f1, f2⟩ := h.full_split k f
    have e := h.cells f1 c hc ha
    rw [k.cells f2 c (h.stays f1 hc) (by rw [e]; exact ha), e]

theorem foldl {α : Type} (f : Reporting → α → Reporting) (hf : ∀ r x, Adds r (f r x)) (xs : List α) (r : Reporting) :
    Adds r (xs.foldl f r) := by
  induction xs generalizing r with
  | nil => exact refl r
  | cons x xs ih => exact (hf r x).trans (ih _)

end Adds

/-! The operations -/

theorem adds_feedShift (f : ShiftRecord → ShiftRecord) (r : Reporting) : Adds r (feedShift f r) :=
  .ofKeeps (keeps_feedShift f r) rfl

/-- What a new notice leaves of the queues where a cell is free, and the loss it counts where none is. -/
theorem fileNotice_free (clock : Nat) (b : NoticeBody) (cls : NoticeClass) (r : Reporting) :
    (∀ c rest, r.notices.free = c :: rest → fileNotice clock b cls r =
      ({ r with notices := fillCell clock b cls c { r.notices with free := rest } }, false)) ∧
    (r.notices.free = [] → (fileNotice clock b cls r).1.notices.lost = min 65535 (r.notices.lost + 1) ∧
      (fileNotice clock b cls r).2 = true) := by
  constructor
  · intro c rest h
    simp [fileNotice, fileNew, h]
  · intro h
    have two : (fileNew clock b cls r.notices).2 = true := by
      unfold fileNew
      split <;> simp_all
    have same : (fileNew clock b cls r.notices).1.lost = r.notices.lost := by
      unfold fileNew
      split <;> rfl
    simp [fileNotice, two, countLoss, feedShift, same, satInc]

/-- A free cell is not queued. -/
theorem free_not_queued {q : NoticeQueues} {c : Fin 256} {rest : List (Fin 256)} (h : Listed q) (hf : q.free = c :: rest) :
    ¬ Queued q c := by
  have nd : (q.free ++ q.urgent ++ q.routine).Nodup := (List.Perm.nodup_iff h).2 (List.nodup_finRange 256)
  rw [hf] at nd
  simp only [List.cons_append, List.nodup_cons, List.mem_append] at nd
  simp only [Queued]
  tauto

theorem adds_fileNotice (clock : Nat) (b : NoticeBody) (cls : NoticeClass) (r : Reporting)
    (hb : ∀ a, noticeAlarm b = some a → r.notices.link.nth a = none) : Adds r (fileNotice clock b cls r).1 := by
  have k := keeps_fileNotice clock b cls r hb
  obtain ⟨h₁, h₂⟩ := fileNotice_free clock b cls r
  cases hf : r.notices.free with
  | nil =>
    obtain ⟨h₃, -⟩ := h₂ hf
    have no : ¬ Full r (fileNotice clock b cls r).1 := fun f => by
      obtain ⟨-, -, a, b⟩ := f
      omega
    exact ⟨k, by rw [h₃]; omega, fun f => (no f).elim, fun f => (no f).elim, fun f => (no f).elim⟩
  | cons c rest =>
    have e := h₁ c rest hf
    refine ⟨k, ?_, fun _ => ?_, fun _ => ?_, fun f d hd _ => ?_⟩
    · rw [e]
      simp only [fillCell, settleAttention]
      omega
    · rw [e]
      cases cls <;> simp [fillCell, settleAttention]
    · rw [e]
      cases cls <;> simp [fillCell, settleAttention]
    · have ne : d ≠ c := fun x => free_not_queued f.1 hf (x ▸ hd)
      rw [e]
      simp only [fillCell, settleAttention]
      exact Tab.nth_put_ne _ ne _

theorem adds_coalesce (clock : Nat) (a : Fin 512) (st : AlarmState) (c : Fin 256) (r : Reporting)
    (hc : r.notices.link.nth a = some c) : Adds r { r with notices := coalesce clock a st c r.notices } where
  keeps := ⟨id, id, id, fun _ y => linked_coalesce _ _ y hc⟩
  lost := by simp only [coalesce]; omega
  urgent := fun _ => by simp [coalesce]
  routine := fun _ => by simp [coalesce]
  cells := fun f d _ ha => by
    have ne : d ≠ c := fun x => by
      have := ((f.2.1 c).2 a).1 hc
      rw [x, this.2] at ha
      cases ha
    simp only [coalesce]
    exact Tab.nth_upd_ne _ ne _

theorem adds_handOver (e : RepEnv) (a : Fin 512) (r : Reporting) : Adds r (handOver e a r).1 := by
  unfold handOver
  simp only
  split
  · rename_i hc
    exact adds_coalesce _ _ _ _ r hc
  · rename_i hc
    exact adds_fileNotice _ _ _ r fun b hb => by cases hb; exact hc

theorem adds_tell (e : RepEnv) (a : Fin 512) (r : Reporting) : Adds r (tell e a r).1 := by
  unfold tell
  split
  · exact .ofKeeps (keeps_setHeld a true r) rfl
  · exact adds_handOver e a r

theorem adds_raiseChain (fuel : Nat) (e : RepEnv) (a : Fin 512) (r : Reporting) : Adds r (raiseChain fuel e a r) :=
  raiseChain_induct (Q := Adds r) (fun _ => True) e trivial trivial
    (fun b x _ _ hx => hx.trans ((Adds.ofKeeps (keeps_takeRaise e b x) rfl).trans (adds_tell e b _)))
    (fun _ hx => hx.trans (.ofKeeps (.ofAlarms id rfl) rfl)) fuel a r trivial (.refl r)

theorem adds_raiseAlarm (e : RepEnv) (a : Fin 512) (r : Reporting) : Adds r (raiseAlarm e a r) := adds_raiseChain 4 e a r

theorem adds_afterLoss (e : RepEnv) (x : Reporting × Bool) : Adds x.1 (afterLoss e x) := by
  unfold afterLoss
  split
  · exact adds_raiseAlarm e 97 x.1
  · exact .refl _

theorem adds_clearAlarm (e : RepEnv) (a : Fin 512) (r : Reporting) : Adds r (clearAlarm e a r) := by
  unfold clearAlarm
  split
  · exact (Adds.ofKeeps (keeps_setAlarm _ a _ r) rfl).trans ((adds_tell e a _).trans (adds_afterLoss e _))
  · exact (Adds.ofKeeps (keeps_setAlarm _ a _ r) rfl).trans ((adds_tell e a _).trans (adds_afterLoss e _))
  · exact .refl r
  · exact .refl r

theorem adds_postNotice (e : RepEnv) (b : NoticeBody) (cls : NoticeClass) (r : Reporting) (hb : noticeAlarm b = none) :
    Adds r (postNotice e b cls r) :=
  (adds_fileNotice _ b cls r fun a ha => by rw [hb] at ha; cases ha).trans (adds_afterLoss e _)

theorem adds_releaseAlarm (e : RepEnv) (a : Fin 512) (r : Reporting) : Adds r (releaseAlarm e a r) := by
  unfold releaseAlarm
  simp only
  split
  · split
    · exact .ofKeeps (keeps_setHeld a false r) rfl
    · exact (Adds.ofKeeps (keeps_setHeld a false r) rfl).trans ((adds_handOver e a _).trans (adds_afterLoss e _))
  · exact .refl r

theorem adds_releaseEach (e : RepEnv) (as : List (Fin 512)) (r : Reporting) : Adds r (releaseEach e as r) :=
  .foldl _ (fun r a => adds_releaseAlarm e a r) as r

theorem adds_releaseHeld (e : RepEnv) (r : Reporting) : Adds r (releaseHeld e r) := adds_releaseEach e _ r

/-! Posted notices -/

theorem queued_urgent (s : State) : queued .urgent s = s.rep.notices.urgent := rfl

theorem queued_routine (s : State) : queued .routine s = s.rep.notices.routine := rfl

/-- What the two lists of a class become over a step that loses nothing. -/
theorem Adds.grown {s t : State} (h : Adds s.rep t.rep) (f : Full s.rep t.rep) (cls : NoticeClass) :
    queued cls s <+: queued cls t := by
  cases cls
  · exact h.urgent f
  · exact h.routine f

theorem full_of_nothingLost {s t : State} (h : nothingLost s t) : Full s.rep t.rep := h

theorem mem_queued {cls : NoticeClass} {s : State} {c : Fin 256} (h : c ∈ queued cls s) : Queued s.rep.notices c := by
  cases cls
  · exact Or.inl h
  · exact Or.inr h

/-- A posting that loses nothing posts its notice. -/
theorem posted_post (b : NoticeBody) (cls : NoticeClass) (s : State) (hb : noticeAlarm b = none) :
    posted b cls s (post b cls s) := by
  intro f
  obtain ⟨h₁, h₂⟩ := fileNotice_free s.clock b cls s.rep
  have a := adds_fileNotice s.clock b cls s.rep fun a ha => by rw [hb] at ha; cases ha
  have g := a.full_split (adds_afterLoss (env s) _) (full_of_nothingLost f)
  cases hf : s.rep.notices.free with
  | nil =>
    obtain ⟨h₃, -⟩ := h₂ hf
    obtain ⟨-, -, x, y⟩ := g.1
    rw [h₃] at y
    omega
  | cons c rest =>
    have e : (post b cls s).rep = { s.rep with notices := fillCell s.clock b cls c { s.rep.notices with free := rest } } := by
      show afterLoss (env s) (fileNotice s.clock b cls s.rep) = _
      rw [h₁ c rest hf]
      rfl
    have q : queued cls (post b cls s) = queued cls s ++ [c] := by
      cases cls <;> simp only [queued, e, fillCell, settleAttention]
    refine ⟨⟨[c], q.symm⟩, c, ?_, ?_⟩
    · rw [q]
      simp
    · rw [e]
      simp only [fillCell, settleAttention, Tab.nth_put_self, newCell]

/-- A posted notice of another kind than ALARM stays posted over what comes after it in the event. -/
theorem posted.after {b : NoticeBody} {cls : NoticeClass} {s t u : State} (hb : noticeAlarm b = none) (h : posted b cls s t)
    (st : Adds s.rep t.rep) (tu : Adds t.rep u.rep) : posted b cls s u := by
  intro f
  obtain ⟨f₁, f₂⟩ := st.full_split tu (full_of_nothingLost f)
  obtain ⟨⟨new, hn⟩, c, hc, hx⟩ := h f₁
  obtain ⟨more, hm⟩ := tu.grown f₂ cls
  have hq : c ∈ queued cls t := List.mem_of_mem_drop hc
  refine ⟨⟨new ++ more, by rw [← List.append_assoc, hn, hm]⟩, c, ?_, ?_⟩
  · rw [← hm, ← hn, List.append_assoc, List.drop_left]
    rw [← hn, List.drop_left] at hc
    exact List.mem_append_left _ hc
  · rw [tu.cells f₂ c (mem_queued hq) ?_, hx]
    rw [hx]
    exact (cellAlarm_newCell s.clock b cls).trans hb

/-- A notice posted in the later part of an event is posted in the event. -/
theorem posted.before {b : NoticeBody} {cls : NoticeClass} {s t u : State} (h : posted b cls t u) (st : Adds s.rep t.rep)
    (tu : Adds t.rep u.rep) (clock : t.clock = s.clock) : posted b cls s u := by
  intro f
  obtain ⟨f₁, f₂⟩ := st.full_split tu (full_of_nothingLost f)
  obtain ⟨⟨new, hn⟩, c, hc, hx⟩ := h f₂
  obtain ⟨more, hm⟩ := st.grown f₁ cls
  refine ⟨⟨more ++ new, by rw [← List.append_assoc, hm, hn]⟩, c, ?_, by rw [hx, clock]⟩
  rw [← hn, List.drop_left] at hc
  rw [← hn, ← hm, List.append_assoc, List.drop_left]
  exact List.mem_append_right _ hc

end Sys2Proof.Machine
end

