-- ==== Sys2Proof/Tests/Slice0.lean ====
section
/-! SUPPORT. Tests: the shape checks refuse ill-formed commands; for every statement with hypotheses, a state and operands
that meet them, clause by clause at the ends of their ranges; and the manual's worked figures. -/

namespace Sys2Proof.Tests
open Sys2Proof Sys2Proof.Machine

-- One theorem after another: each kernel evaluation beside the others would take a thread with a stack of its own.
set_option Elab.async false

/-! States for the tests -/

/-- The part right after reset. -/
abbrev base : State := State.reset

/-- Settings with burner 0 and line 0 equipped, their channels and those of grate 0 assigned, and the cooler's points
named. -/
def plantCfg : Settings :=
  let f := Settings.factory
  { f with
    burners := f.burners.upd 0 fun c => { c with airPoint := some 0, fanInput := some 0, ignitionLine := some 0 }
    lines := f.lines.upd 0 fun c => { c with configured := true }
    cooler := { f.cooler with pressurePoint := some 1, outletPoint := some 2 }
    channels := (((f.channels.upd 0 fun c => { c with mode := .freq, owner := some (.lineDrive 0) }).upd 1
      fun c => { c with mode := .count, owner := some (.lineFeedback 0) }).upd 2
      fun c => { c with mode := .freq, owner := some (.grateDrive 0) }).upd 3
      fun c => { c with mode := .count, owner := some (.grateFeedback 0) } }

/-- A fresh point of value 0. -/
def goodPoint (x : PointRec) : PointRec := { x with quality := .good, age := 10 }

/-- A part in HEAT-UP with `plantCfg`: burner 0 IDLE with its air permissive TRUE, E-STOP HEALTHY, KEY ON, lock level 0, no
alarm active, no notice queued. -/
def plant : State :=
  let s := onPoint 0 goodPoint (onPoint 1 goodPoint (onPoint 2 goodPoint { base with settings := plantCfg, lock := 0 }))
  let s := onInput 0 (fun x => { x with level := true })
    (onEstop (fun x => { x with healthy := true }) (onKey (fun x => { x with on := true }) s))
  onBurner 0 (fun b => { b with state := .idle, air := .permitted })
    (giveMode { s with kiln := { s.kiln with mode := .heatUp }, rep := .begin (Tab.fill .empty) (Tab.fill none) 0 false })

/-- `plant` with burner 0 changed. -/
def lit (f : BurnerRec → BurnerRec) : State := onBurner 0 f plant

/-- `plant` with line 0 changed. -/
def fed (f : LineRec → LineRec) : State := onLine 0 f plant

/-- `plant` with other settings. -/
def tuned (f : Settings → Settings) : State := { plant with settings := f plant.settings }

/-- `plant` with the Link Port changed. -/
def linked (f : LinkPort → LinkPort) : State := onLink f plant

/-- `plant` with an alarm in a state. -/
def alarmed (a : Fin 512) (st : AlarmState) : State :=
  { plant with rep := { plant.rep with alarms := { plant.rep.alarms with
    recs := plant.rep.alarms.recs.upd a fun x => { x with state := st } } } }

/-- `plant` with the shift part changed. -/
def shifted (f : ShiftAcc → ShiftAcc) : State := { plant with rep := { plant.rep with shift := f plant.rep.shift } }

/-- `plant` with a FULL ring of reports 1 to 8, each held `h` times. -/
def ringFull (h : Nat) : State :=
  shifted fun x => { x with ring := Tab.make fun i => { report := some (ShiftRecord.fresh (i.val + 1) 0), hold := h } }

/-- `plant` with the cooler changed. -/
def cooled (f : CoolerCtl → CoolerCtl) : State := onCooler f plant

/-- `plant` in PRODUCTION with burner 0 FIRING, line 3 its support line in state `st`, ALT-SOLID line 1 changed, channel 6 in
COUNT and channel 7 in DUTY without a role. -/
def supporting (st : LineState) (f : LineRec → LineRec) : State :=
  let drive := fun (m : Fin 6) (c : ChannelCfg) => { c with mode := .freq, owner := some (.lineDrive m) }
  let lines := (plantCfg.lines.upd 1 fun c => { c with configured := true, kind := .altSolid }).upd 3
    fun c => { c with configured := true }
  let free := fun (md : ChannelMode) (c : ChannelCfg) => { c with mode := md }
  let channels := (((plantCfg.channels.upd 4 (drive 1)).upd 5 (drive 3)).upd 6 (free .count)).upd 7 (free .duty)
  let cfg := { plantCfg with lines := lines, channels := channels }
  let s := onBurner 0 (fun b => { b with state := .firing }) { plant with settings := cfg }
  let s := { s with kiln := { s.kiln with mode := .production } }
  onLine 1 f (onLine 3 (fun x => { x with requested := .auto, actual := st, rate := 100 }) s)

/-- `plant` in SHUTDOWN with burner 0 in its post-purge, the one burner pending. -/
def stopping : State :=
  let s := lit fun b => { b with state := .stopping, stepRunning := true }
  giveMode { s with kiln := { mode := .shutdown, pendingShutdown := (Tab.fill false).put 0 true } }

/-- The next state of a command that answers one. -/
def after (c : Instr) (s : State) : State :=
  match exec c s with
  | .next t => t
  | .fault _ | .refused _ => s

/-! The shape checks refuse ill-formed commands -/

theorem test_wf_samples_count_zero : (Instr.putSamples 0 0 []).wf = false := by decide
theorem test_wf_samples_count_high : (Instr.putSamples 0 25 (List.replicate 25 ⟨0, 0, 0⟩)).wf = false := by decide
theorem test_wf_samples_length : (Instr.putSamples 0 2 [⟨0, 0, 0⟩]).wf = false := by decide
theorem test_wf_fans : (Instr.setFans 0 [1, 2, 3, 4, 5]).wf = false := by decide
theorem test_wf_frame : (Instr.validFrame [0xA5#8, 2, 1, 7, 0, 0]).wf = false := by decide +kernel
theorem test_wf_code : (Instr.unknownRequestCode 0x53 0).wf = false := by decide
theorem test_wf_accepts :
    (Instr.putSamples 0 24 (List.replicate 24 ⟨0, 0, 0⟩)).wf && (Instr.setFans 0 [1, 2, 3, 4, 5, 6]).wf &&
      (Instr.validFrame (requestFrame [1, 7])).wf && (Instr.unknownRequestCode 0x54 0).wf = true := by decide +kernel

/-! Hypotheses that can be met: steps, frames, link -/

theorem witness_StepRunsFrontCommand :
    ({ base with pending := [.identify 1, .linkIdleHunt] } : State).pending = .identify 1 :: [.linkIdleHunt] := rfl

theorem witness_EmptyQueueTicks : base.pending = [] := rfl

theorem witness_CommandsKeepTheQueue : ∃ t, exec (.identify 0) base = .next t := ⟨_, rfl⟩

theorem witness_FrameCarriesRequest :
    (Instr.restart 7).body = some [5, 7] ∧ (Instr.restart 7).wf = true ∧
      (Instr.putSamples 0 1 [⟨255, 0, 255⟩]).body.isSome ∧ (Instr.putSamples 0 1 [⟨255, 0, 255⟩]).wf = true ∧
      base.link.hunting = true ∧ base.link.hold = none ∧ base.link.reply = none ∧
      base.link.restartPending = false ∧ (List.replicate 248 0#8).length ≤ 248 ∧ parameterBytes 0x06 [0] = none ∧
      parameterBytes 0x18 [] = some 1 ∧ parameterBytes 0x10 [2] = some 13 ∧ [2#8].length ≠ 13 := by decide +kernel

theorem witness_FrameFormat :
    2 ≤ [1#8, 7].length ∧ (List.replicate 250 0#8).length ≤ 250 ∧ 0xA4#8 ≠ 0xA5#8 ∧ (1#8).toNat < 2 ∧
      250 < (251#8).toNat ∧ (List.replicate 255 0#8).length ≤ 255 ∧ [0#8, 0].length = 2 ∧
      [0#8, 0] ≠ beBytes 2 (crc [BitVec.ofNat 8 ([] : List Byte).length]).toNat ∧
      [false, false].getLast? = some false ∧ base.link.reply = none ∧
      (linked fun l => { l with reply := some ⟨1, 7, .ok, []⟩ }).link.reply = some ⟨1, 7, .ok, []⟩ := by decide +kernel

/-- The first character of a reply, 5Ah, level by level, and the idle line after the last of its 8 bytes. -/
theorem test_reply_levels :
    let s := linked fun l => { l with reply := some ⟨1, 7, .ok, []⟩ }
    (List.range 10).map (txdLevel s) = [false, false, true, false, true, true, false, true, false, true] ∧
      txdLevel s 79 = true ∧ txdLevel s 80 = true ∧ txdLevel base 0 = true ∧
      receivedBody ((requestFrame [1, 7]).map character) = some [1, 7] ∧
      receivedBody [[false, true, true, true, true, true, true, true, true, false]] = none := by decide +kernel

theorem witness_BadFramesAreDiscarded :
    base.link.hunting = true ∧ frameBody [0xA5#8, 1, 0, 0, 0] = none ∧
      (linked fun l => { l with hunting := false }).link.hunting = false := by decide +kernel

theorem witness_ValidFrameIsHeard :
    frameBody (requestFrame [1, 7]) = some [1, 7] ∧ plant.link.hunting = true ∧
      (linked fun l => { l with hold := some [1, 7] }).link.hold.isSome ∧
      (linked fun l => { l with reply := some ⟨1, 7, .ok, []⟩, state := .silent }).link.reply.isSome ∧
      (linked fun l => { l with reply := some ⟨1, 7, .ok, []⟩, state := .silent }).link.state = .silent ∧
      plant.link.state ≠ .silent := by decide +kernel

theorem witness_RepliesEnd :
    let replying := linked fun l => { l with reply := some ⟨1, 7, .ok, []⟩ }
    let waits := fun body => linked fun l => { l with reply := some ⟨1, 7, .ok, []⟩, hold := some body }
    let waiting := waits [1, 7]
    let restarting := linked fun l => { l with reply := some ⟨5, 7, .ok, []⟩, restartPending := true }
    plant.link.reply = none ∧ plant.link.restartPending = false ∧
      (restarting.link.reply.isSome ∧ restarting.link.restartPending = true) ∧
      (replying.link.reply.isSome ∧ replying.link.restartPending = false ∧ replying.link.hold = none) ∧
      waiting.link.reply.isSome ∧ waiting.link.restartPending = false ∧ waiting.link.hold = some (1 :: 7 :: []) ∧
      ((waits [0, 7, 1]).link.hold = some (0 :: 7 :: [1]) ∧ parameterBytes 0 [1] = none) ∧
      ((waits [1, 7, 1]).link.hold = some (1 :: 7 :: [1]) ∧ parameterBytes 1 [1] = some 0) := by decide +kernel

theorem witness_RequestsAreLostAfterRestart :
    (Instr.identify 0).body.isSome ∧ (linked fun l => { l with restartPending := true }).link.restartPending = true := by
  decide +kernel

theorem witness_LinkIsWatched :
    let normal := linked fun l => { l with state := .normal, silence := some 0 }
    normal.link.silence.isSome ∧ normal.link.state = .normal ∧ plant.link.silence = none := by decide +kernel

/-! Hypotheses that can be met: reads, settings, resets -/

theorem witness_IdentifyAndStatusAnswer : base.link.restartPending = false := rfl

theorem witness_ReadsAnswerRecords :
    base.link.restartPending = false ∧ (95#8).toNat < 96 ∧ 1 ≤ (1#8).toNat ∧ (24#8).toNat ≤ 24 ∧
      96 ≤ (96#8).toNat ∧ (0#8).toNat = 0 ∧ 24 < (25#8).toNat := by decide +kernel

theorem witness_ReadAlarmsAnswersTheBlock :
    base.link.restartPending = false ∧
      ((511#16).toNat < 512 ∧ (0#8).toNat ≤ 9 ∧ (511#16).toNat % 2 ^ (0#8).toNat = 0 ∧ (0#16).toNat < 2 ^ (0#8).toNat) ∧
      ((0#16).toNat < 512 ∧ (9#8).toNat ≤ 9 ∧ (0#16).toNat % 2 ^ (9#8).toNat = 0 ∧ (511#16).toNat < 2 ^ (9#8).toNat) ∧
      (511 : Fin 512).val = (0#16).toNat + (511#16).toNat ∧ 512 ≤ (512#16).toNat ∧ 9 < (10#8).toNat ∧
      (1#16).toNat % 2 ^ (1#8).toNat ≠ 0 ∧ 2 ^ (0#8).toNat ≤ (1#16).toNat := by decide +kernel

theorem no_report {r : Option ShiftRecord} {n : Nat} (h : r = none) : ¬ ∃ x, r = some x ∧ x.seq = n := by
  rintro ⟨x, hx, _⟩
  rw [h] at hx
  cases hx

theorem witness_ReportsAreRead :
    let x := ShiftRecord.fresh 8 0
    let inLast := shifted fun sh => { sh with ring := sh.ring.put 7 { report := some x, hold := 0 } }
    let stored := { plant with nv := { plant.nv with copies := plant.nv.copies.put 1 (some x) } }
    ((inLast.rep.shift.ring.nth 7).report = some x ∧ x.seq = (8#32).toNat ∧
      ∀ j, j < 7 → (inLast.rep.shift.ring.nth j).report = none) ∧
      (stored.nv.copies.nth 1 = some x ∧ stored.nv.copies.nth 0 = none ∧
        ∀ j, (stored.rep.shift.ring.nth j).report = none) ∧
      (∀ c, plant.nv.copies.nth c = none) ∧ (3#8).toNat < 4 ∧ 4 ≤ (4#8).toNat := by decide +kernel

theorem witness_SettingRequestsAreChecked :
    let taken := fun (a : SettingAddr) (i : Nat) (v : Word) (s : State) =>
      (s.settings.write a i v).map fun new => ownRefusal a i new s
    (settingAt base 6 0 0 = none ∧ settingAt base 7 0 0 = none ∧ settingAt base 6 0xFFFF 6 = none) ∧
      settingAt base 6 0xFFFF 0 = some (.general, 5) ∧ protectedAt base.lock .general 0 = true ∧
      protectedAt plant.lock .general 0 = false ∧ base.settings.write .general 0 61 = none ∧
      taken .general 0 60 plant = some none ∧ settingAt plant 1 0 2 = some (.line 0, 0) ∧
      taken (.line 0) 2 2 plant = some (some .range) ∧
      taken (.line 0) 2 1 (fed fun x => { x with actual := .waiting }) = some (some .state) := by decide +kernel

/-- What a taken write does at once: each clause at a state that it asks for. -/
theorem witness_SettingRequestsAreChecked_acts :
    let taken := fun (a : SettingAddr) (i : Nat) (v : Word) (s : State) =>
      (s.settings.write a i v).map (fun new => ownRefusal a i new s) = some none
    let cooling := cooled fun c => { c with state := .running }
    let turning := onGrate 0 (fun g => { g with state := .running }) cooling
    let freed := tuned fun c => { c with channels := c.channels.upd 3 fun x => { x with owner := none } }
    (taken (.burner 0) 10 3 plant ∧ (burnerState plant 0).atRest = true) ∧
      (let firing := lit fun b => { b with state := .firing }
       taken (.burner 0) 10 3 firing ∧ (burnerState firing 0).atRest = false) ∧
      taken (.burner 0) 11 0xFFFFFFFF plant ∧ taken (.burner 0) 14 0xFFFFFFFF plant ∧
      (let auto := fed fun x => { x with actual := .auto, rate := 10000 }
       taken (.line 0) 5 9999 auto ∧ (lineRec auto 0).actual.runs = true) ∧
      (let bare := tuned fun c =>
         { c with channels := (c.channels.upd 2 fun x => { x with owner := none }).upd 6 fun x => { x with mode := .freq } }
       taken (.channel 6) 1 12 bare) ∧
      (∀ n, plant.fuel.ignition.nth n = none) ∧ taken (.line 0) 2 1 plant ∧ taken (.line 0) 4 100 plant ∧
      taken (.line 0) 15 0xFFFFFFFF plant ∧ taken (.line 0) 7 0 plant ∧ taken (.demand 0) 0 0 plant ∧
      taken (.demand 0) 7 0xFFFFFFFF plant ∧ taken (.point 0) 1 1 plant ∧ taken (.point 0) 2 0 plant ∧
      taken (.alarm 511) 0 0 plant ∧ taken (.channel 0) 2 11 plant ∧ taken (.channel 1) 1 0xFFFFFFFF plant ∧
      (plant.settings.channels.nth 1).owner = some (.lineFeedback 0) ∧ taken .coolerCommon 10 0 plant ∧
      taken .coolerCommon 0 10 plant ∧ taken .fuelCommon 0 1000 plant ∧
      (cooling.cooler.state = .running ∧ (cooling.cooler.grates.nth 0).state = .stopped) ∧
      ((turning.cooler.grates.nth 0).state = .running ∧ freed.settings.channelOf (.grateFeedback 0) = none) := by
  decide +kernel

/-- What a channel given to a role does: a line's drive that starts it, a feedback of a line in AUTO, and a fan; a channel
taken from the feedback of a line. -/
theorem witness_SettingRequestsAreChecked_given :
    let s := supporting .auto id
    let taken := fun (c : Fin 24) (v : Word) (s : State) =>
      (s.settings.write (.channel c) 1 v).map (fun new => ownRefusal (.channel c) 1 new s) = some none
    let bare :=
      let s := supporting .off id
      { s with settings := { s.settings with channels := s.settings.channels.upd 5 fun x => { x with owner := none } } }
    (taken 5 3 bare ∧ (lineRec bare 3).actual.runs = false ∧
      (bare.settings.write (.channel 5) 1 3).map (fun new =>
        (lineRec (takeWrite (.channel 5) 1 new bare) 3).actual.runs) = some true) ∧
      (taken 6 9 s ∧ (lineRec s 3).actual = .auto ∧ s.settings.channelOf (.lineDrive 3) = some 5) ∧ taken 7 18 s ∧
      taken 1 0xFFFFFFFF s := by
  decide +kernel

theorem witness_WrittenSettingReadsBack :
    (Settings.factory.write .general 0 60).isSome ∧ (SettingAddr.general, 1) ≠ (.general, 0) := by decide +kernel

theorem witness_FlagsAndClock :
    plant.link.restartPending = false ∧
      2 ≤ { plant.rep.notices with free := [254, 255] : NoticeQueues }.free.length := by decide +kernel

theorem witness_ResetsReload :
    ({ base.nv with image := some plantCfg } : Nonvolatile).image = some plantCfg ∧ base.nv.image = none ∧
      (linked fun l => { l with restartPending := true }).link.restartPending = true ∧
      base.link.restartPending = false ∧ (5 : Fin 512) ∉ ([97, 98, 100, 103] : List (Fin 512)) ∧
      ∀ a, a ∈ ([97, 98, 100, 103] : List (Fin 512)) → (Settings.factory.alarms.nth a).group ≠ some 0 := by
  refine ⟨rfl, rfl, rfl, rfl, ?_, ?_⟩ <;> decide +kernel

/-! Hypotheses that can be met: points, inputs, forces -/

theorem witness_SamplesAreTaken :
    (1 ≤ (24#8).toNat ∧ (24#8).toNat ≤ 24 ∧ (List.replicate 24 (⟨0, 0, 0⟩ : SampleEntry)).length = (24#8).toNat) ∧
      ¬ 1 ≤ (0#8).toNat ∧ ¬ (25#8).toNat ≤ 24 ∧ ([] : List SampleEntry).length ≠ (1#8).toNat ∧
      96 ≤ (96#8).toNat ∧ 2 ≤ (2#8).toNat ∧ (95#8).toNat = (95 : Fin 96).val ∧ (0 : Fin 96).val ≠ (95#8).toNat ∧
      (plant.settings.burners.nth 0).airPoint = some 0 ∧ (plant.settings.burners.nth 1).airPoint ≠ some 0 := by
  decide +kernel

/-- `plant` with limit HH of point 0 present at 0. -/
def limited : State :=
  tuned fun c => { c with points := c.points.upd 0 fun x =>
    { x with limits := x.limits.put 0 { present := true, value := 0 } } }

theorem witness_LimitsAreEvaluated :
    ((limited.settings.points.nth 0).limits.nth 0).present = true ∧
      (limited.points.points.nth 0).cond.nth 0 ≠ ((evalLimits 0 limited).points.points.nth 0).cond.nth 0 := by
  decide +kernel

theorem witness_ForcesAreGuarded :
    let uses := fun n => (plant.settings.burners.nth n).airPoint = some 0
    let free := fun (s : State) => s.lock = 0 ∧ s.points.key.on = true ∧ ∀ n, uses n → (burnerState s n).atRest = true
    let locked := { plant with lock := 1 }
    let firing := lit fun b => { b with state := .firing }
    let forced := onPoint 0 (fun x => { x with force := some 5, quality := .stale }) plant
    (96 ≤ (96#8).toNat ∧ (0#8).toNat = (0 : Fin 96).val) ∧ (∃ n, uses n) ∧ free plant ∧ ¬ free locked ∧ ¬ free firing ∧
      (plant.points.points.nth 0).force = none ∧ (forced.points.points.nth 0).force.isSome ∧
      (forced.points.points.nth 0).quality ≠ .good ∧
      (let good := onPoint 0 (fun x => { x with force := some 5 }) plant
       (good.points.points.nth 0).force.isSome ∧ (good.points.points.nth 0).quality = .good) ∧
      (plant.settings.points.nth 95).cls = .process ∧
      (plant.settings.burners.nth 0).fanInput = some 0 ∧ (1#16).getLsbD (0 : Fin 16).val = true ∧
      (plant.points.inputs.nth 0).forceMask = false ∧ (0x8000#16).getLsbD (0 : Fin 16).val = false := by decide +kernel

theorem witness_InputsAreDebounced :
    let x := plant.points.inputs.nth 0
    let running := onInput 0 (fun y => { y with timer := some 0 }) plant
    let key := plant.points.key
    (x.pin = false ∧ x.level = true ∧ x.pin ≠ true) ∧ (plant.points.inputs.nth 15).level ≠ true ∧
      (plant.points.inputs.nth 15).pin ≠ true ∧ x.timer = none ∧ (running.points.inputs.nth 0).timer.isSome ∧
      (plant.settings.burners.nth 0).fanInput = some 0 ∧ (plant.settings.burners.nth 1).fanInput ≠ some 0 ∧
      (key.pin = false ∧ key.pin ≠ true ∧ key.on = true ∧ base.points.key.pin ≠ true ∧ true ≠ base.points.key.on) ∧
      key.timer = none ∧ (onKey (fun k => { k with timer := some 0 }) plant).points.key.timer.isSome := by decide +kernel

theorem witness_EstopLocksOut :
    base.points.estop.healthy = false ∧ plant.points.estop.healthy = true ∧ burnerState plant 0 ≠ .lockedOut ∧
      burnerState plant 1 = .lockedOut ∧ base.points.estop.pinHigh = false ∧
      (onEstop (fun x => { x with pinHigh := true, timer := some 0 }) base).points.estop.pinHigh = true ∧
      (onEstop (fun x => { x with pinHigh := true, timer := some 0 }) base).points.estop.timer.isSome ∧
      base.points.estop.timer = none := by decide +kernel

/-! Hypotheses that can be met: burners -/

/-- `plant` with point 0 STALE. -/
def staled (f : BurnerRec → BurnerRec) : State := onPoint 0 (fun x => { x with quality := .stale, age := 0 }) (lit f)

/-- `base` with burner 0 changed: no interlock is bound, so the air permissive is LOST. -/
def airless (f : BurnerRec → BurnerRec) : State := onBurner 0 f base

theorem witness_AirPermissiveActs :
    airOf plant 0 = .permitted ∧ airOf (staled id) 0 = .staleOnly ∧ airOf (airless id) 0 = .lost ∧
      ((lit fun b => { b with state := .purge, air := .lost }).burners.nth 0).air = .lost ∧
      (let s := lit fun b => { b with state := .purge, air := .staleOnly }
       airOf s 0 ≠ (s.burners.nth 0).air ∧ airOf s 0 = .permitted) ∧
      (let s := airless fun b => { b with state := .purge, air := .permitted }
       airOf s 0 ≠ (s.burners.nth 0).air ∧ (s.burners.nth 0).air = .permitted) ∧
      (let s := airless fun b => { b with state := .purge, air := .staleOnly }
       airOf s 0 ≠ (s.burners.nth 0).air ∧ airOf s 0 ≠ .permitted ∧ (s.burners.nth 0).air ≠ .permitted) ∧
      (let s := staled fun b => { b with state := .pilotTrial, air := .permitted }
       airOf s 0 ≠ (s.burners.nth 0).air ∧ airOf s 0 ≠ .permitted) ∧
      (let s := lit fun b => { b with state := .mainTrial, air := .lost }
       airOf s 0 ≠ (s.burners.nth 0).air ∧ airOf s 0 = .permitted) ∧
      (let s := lit fun b => { b with state := .firing, air := .staleOnly }
       airOf s 0 ≠ (s.burners.nth 0).air ∧ airOf s 0 = .permitted) ∧
      (let s := staled fun b => { b with state := .firing, air := .permitted }
       airOf s 0 = .staleOnly ∧ (s.burners.nth 0).latched.staleGrace ≠ 0) ∧
      (let s := staled fun b => { b with state := .firing, air := .permitted, latched := { b.latched with staleGrace := 0 } }
       airOf s 0 = .staleOnly ∧ (s.burners.nth 0).latched.staleGrace = 0) ∧
      (let s := airless fun b => { b with state := .firing, air := .permitted }
       airOf s 0 = .lost ∧ airOf s 0 ≠ (s.burners.nth 0).air) ∧
      (let s := airless fun b => { b with state := .stopping, air := .permitted }
       airOf s 0 ≠ (s.burners.nth 0).air ∧ (s.burners.nth 0).state = .stopping) := by decide +kernel

theorem witness_BurnerStartPurges :
    let b := plant.burners.nth 0
    let cfg := plant.settings.burners.nth 0
    plant.link.restartPending = false ∧ 3 ≤ (3#8).toNat ∧ (2#8).toNat = (2 : Fin 3).val ∧ b.state = .idle ∧
      plant.kiln.mode = .heatUp ∧ (∀ p, cfg.airPoint = some p → (plant.points.points.nth p).force = none) ∧
      (∀ i, cfg.fanInput = some i → (plant.points.inputs.nth i).forceMask = false) ∧ b.air = .permitted ∧
      plant.points.estop.healthy = true ∧ b.scanA.verdict ≠ .flame ∧ b.scanB.verdict ≠ .flame ∧
      (∃ m, cfg.ignitionLine = some m ∧ (lineCfg plant m).configured = true ∧ (lineCfg plant m).burner = 0) ∧
      (plant.burners.nth 1).state ≠ .idle := by decide +kernel

theorem witness_BurnerStopsByState :
    let stops := fun st => lit fun b => { b with state := st }
    let flaming := lit fun b => { b with state := .mainTrial, scanA := { b.scanA with verdict := .flame } }
    let noPost := tuned fun c => { c with burners := c.burners.upd 0 fun b =>
      { b with timing := { b.timing with postPurgeTime := 0 } } }
    3 ≤ (3#8).toNat ∧ (plant.burners.nth 0).state = .idle ∧ ((stops .purge).burners.nth 0).state = .purge ∧
      ((stops .firing).burners.nth 0).state = .firing ∧ (plant.settings.burners.nth 0).timing.postPurgeTime ≠ 0 ∧
      (noPost.settings.burners.nth 0).timing.postPurgeTime = 0 ∧ (flaming.burners.nth 0).scanA.verdict = .flame ∧
      (flaming.burners.nth 0).state = .mainTrial ∧ (plant.burners.nth 0).scanA.verdict ≠ .flame ∧
      (plant.burners.nth 0).scanB.verdict ≠ .flame := by decide +kernel

theorem witness_LockoutIsReset :
    let b := plant.burners.nth 1
    3 ≤ (3#8).toNat ∧ b.state = .lockedOut ∧ plant.points.estop.healthy = true ∧ alarmActive plant 98 = false ∧
      b.scanA.verdict ≠ .flame ∧ b.scanB.verdict ≠ .flame ∧ (plant.burners.nth 0).state ≠ .lockedOut := by
  decide +kernel

theorem witness_FlameWindowIsJudged :
    let b := plant.burners.nth 0
    let seen := fun (st : BurnerState) (x y p d : Nat) => lit fun b =>
      { b with state := st, scanA := { b.scanA with counter := x }, scanB := { b.scanB with counter := y },
               proven := p, dark := d }
    (b.latched.cmin = 3 ∧ b.latched.cmax = 400 ∧ b.latched.k = 3 ∧ b.darkLimit = 20) ∧
      (let x := (seen .idle 401 2 0 0).burners.nth 0
       x.latched.cmax < x.scanA.counter ∧ x.scanB.counter < x.latched.cmin ∧ x.scanA.verdict ≠ .fault) ∧
      (let x := (seen .purge 3 400 0 0).burners.nth 0
       x.latched.cmin ≤ x.scanA.counter ∧ x.scanB.counter ≤ x.latched.cmax ∧ x.unjudged = false) ∧
      ((lit fun b => { b with unjudged := true }).burners.nth 0).unjudged = true ∧
      (let x := (seen .pilotTrial 3 3 2 0).burners.nth 0
       x.state = .pilotTrial ∧ min x.latched.k (x.proven + 1) = x.latched.k) ∧
      (let x := (seen .pilotTrial 3 3 1 0).burners.nth 0
       x.state = .pilotTrial ∧ min x.latched.k (x.proven + 1) ≠ x.latched.k) ∧
      ((plant.settings.burners.nth 0).ignitionLine = some 0 ∧ (lineCfg plant 0).configured = true ∧
        (lineCfg plant 0).burner = 0 ∧ (lineRec plant 0).actual ≠ .tripped ∧
        assigned plant (.lineDrive 0) = true) ∧
      (let x := (seen .mainTrial 0 0 0 19).burners.nth 0
       x.state = .mainTrial ∧ x.darkLimit ≤ min 65535 (x.dark + 1)) ∧
      (let x := (seen .firing 0 0 0 18).burners.nth 0
       x.state = .firing ∧ ¬ x.darkLimit ≤ min 65535 (x.dark + 1)) ∧
      (let x := (seen .firing 401 401 0 0).burners.nth 0
       x.state = .firing ∧ x.latched.cmax < x.scanA.counter ∧ x.latched.cmax < x.scanB.counter) ∧
      (plant.burners.nth 1).state = .lockedOut := by decide +kernel

theorem witness_BurnerTimersExpire :
    let timed := fun (st : BurnerState) (p : Nat) => lit fun b => { b with state := st, stepRunning := true, proven := p }
    let flaming := lit fun b =>
      { b with state := .stopping, stepRunning := true, scanB := { b.scanB with verdict := .flame } }
    let grace := lit fun b => { b with state := .firing, grace := some 0 }
    (∀ st : BurnerState, st ∈ [.purge, .pilotTrial, .mainTrial, .stopping] →
        burnerState (timed st 3) 0 = st ∧ ((timed st 3).burners.nth 0).stepRunning = true) ∧
      ((timed .mainTrial 3).burners.nth 0).proven = ((timed .mainTrial 3).burners.nth 0).latched.k ∧
      ((timed .mainTrial 2).burners.nth 0).proven ≠ ((timed .mainTrial 2).burners.nth 0).latched.k ∧
      ((timed .stopping 0).burners.nth 0).scanA.verdict ≠ .flame ∧ (flaming.burners.nth 0).scanB.verdict = .flame ∧
      (plant.burners.nth 0).state ≠ .purge ∧ (grace.burners.nth 0).grace.isSome ∧
      (grace.burners.nth 0).state ≠ .lockedOut ∧ (plant.burners.nth 0).grace = none := by decide +kernel

theorem witness_ScannersAreCounted :
    ((lit fun b => { b with disagree := some 0 }).burners.nth 0).disagree.isSome ∧
      (plant.burners.nth 0).disagree = none := by decide +kernel

theorem witness_LockoutEntry :
    let inMode := fun md => { plant with kiln := { plant.kiln with mode := md } }
    burnerState plant 1 = .lockedOut ∧ burnerState plant 0 ≠ .lockedOut ∧ (causeAlarm .flameFail).isSome ∧
      burnerState (lit fun b => { b with state := .firing }) 0 = .firing ∧
      (inMode .production).kiln.mode = .production ∧ plant.kiln.mode ≠ .production ∧ plant.kiln.mode ≠ .shutdown ∧
      (burnerState (onBurner 1 (fun b => { b with state := .idle }) (inMode .production)) 1 ≠ .lockedOut) ∧
      (stopping.kiln.mode = .shutdown ∧ stopping.kiln.pendingShutdown.nth 0 = true ∧
        (∀ k, k ≠ 0 → stopping.kiln.pendingShutdown.nth k = false) ∧ burnerState stopping 0 ≠ .lockedOut) := by
  decide +kernel

/-! Hypotheses that can be met: modes, lines -/

theorem witness_SetModeFollowsTable :
    let firing := cooled fun c => { c with state := .pileUp }
    5 ≤ (5#8).toNat ∧ (1#8).toNat = KilnMode.heatUp.code ∧ plant.kiln.mode = .heatUp ∧ base.kiln.mode ≠ .heatUp ∧
      (burnerState plant 0 ≠ .firing ∧ KilnMode.production ≠ plant.kiln.mode) ∧
      (burnerState (onBurner 0 (fun b => { b with state := .firing }) firing) 0 = .firing ∧
        firing.cooler.state = .pileUp ∧ firing.kiln.mode = .heatUp) ∧
      (∀ n, (burnerState plant n).atRest = true) ∧
      (burnerState (lit fun b => { b with state := .firing }) 0).atRest = false := by decide +kernel

theorem witness_FuelRequestsAct :
    let tripped := fed fun x => { x with actual := .tripped }
    let trial := onBurner 0 (fun b => { b with state := .mainTrial })
      { fed fun x => { x with actual := .starting } with
        fuel := { (fed fun x => { x with actual := .starting }).fuel with ignition := (Tab.fill none).put 0 (some 0) } }
    let firing := lit fun b => { b with state := .firing }
    3 ≤ (3#8).toNat ∧ 6 ≤ (6#8).toNat ∧ (5#8).toNat = (5 : Fin 6).val ∧ (lineCfg plant 5).configured = false ∧
      (lineCfg plant 0).configured = true ∧ (lineRec plant 0).actual ≠ .tripped ∧
      (lineRec tripped 0).actual = .tripped ∧
      (trial.fuel.ignition.nth (lineCfg trial 0).burner = some 0 ∧ (lineRec trial 0).actual.runs = true ∧
        burnerState trial (lineCfg trial 0).burner = .mainTrial) ∧
      (burnerState firing (lineCfg firing 0).burner = .firing ∧
        firing.fuel.ignition.nth (lineCfg firing 0).burner ≠ some 0 ∧ (lineCfg firing 0).kind ≠ .altSolid ∧
        assigned firing (.lineDrive 0) = true ∧ (lineRec firing 0).actual.runs = false) ∧
      (lineCfg plant 1).burner = (lineCfg plant 0).burner ∧ ∃ k, (lineCfg (tuned fun c =>
        { c with lines := c.lines.upd 1 fun x => { x with burner := 2 } }) k).burner ≠ 0 := by decide +kernel

/-- A line that runs, in each of its running states; and an ALT-SOLID line that may run, with its support line in AUTO. -/
theorem witness_FuelRequestsAct_running :
    (∀ st : LineState, st ∈ [.starting, .auto, .manual] →
      let s := supporting st id
      burnerState s 0 = .firing ∧ s.fuel.ignition.nth 0 ≠ some 3 ∧ (lineCfg s 3).kind ≠ .altSolid ∧
        assigned s (.lineDrive 3) = true ∧ (lineCfg s 3).configured = true ∧ (lineRec s 3).actual = st) ∧
      (let s := supporting .auto id
       linesLawful s ∧ s.kiln.mode = .production ∧ (s.settings.demand.nth 0).inletPoint = none ∧
        (lineCfg s 3).burner = (lineCfg s 1).burner ∧ (lineCfg s 1).kind = .altSolid ∧
        assigned s (.lineDrive 1) = true ∧ (lineRec s 1).actual.runs = false) ∧
      let inlet := { plantCfg with demand := plantCfg.demand.upd 0 fun d => { d with inletPoint := some 0, inletMin := 0 } }
      freshValue { plant with settings := inlet } (some 0) = some 0 := by
  refine ⟨by decide +kernel, ⟨⟨?_, ?_, ?_, ?_, ?_⟩, by decide +kernel⟩, by decide +kernel⟩
  · unfold stoppedLinesRest; decide +kernel
  · unfold stoppedDrivesRest; decide +kernel
  · unfold runningRatesLawful; decide +kernel
  · unfold ignitionLawful; decide +kernel
  · unfold linesSettled; decide +kernel

theorem witness_HeatSplitKeepsLimits :
    let x : Alloc := { line := 0, alt := true, share := 0, hmin := 5, hmax := 5, a := 0 }
    x.hmin ≤ x.hmax ∧ [x][0]? = some x ∧ 0 < heatSum (heatSplit 0 0 [x]) ∧ 0 * 0 / 1000 < altSum (heatSplit 0 0 [x]) ∧
      heatSum (heatSplit 6 1000 [x]) < 6 := by decide +kernel

theorem witness_ControlPeriodIsProcessed :
    let auto := onBurner 0 (fun b => { b with state := .firing })
      (fed fun x => { x with requested := .auto, actual := .auto, rate := 100 })
    let starting := onBurner 0 (fun b => { b with state := .firing }) (fed fun x => { x with actual := .starting, rate := 100 })
    let sync := tuned fun c => { c with general := { c.general with syncEnable := true } }
    (lineRec plant 0).rate = 0 ∧ (lineRec auto 0).rate ≠ 0 ∧ (lineRec auto 0).actual = .auto ∧
      burnerState auto (lineCfg auto 0).burner = .firing ∧ (lineRec starting 0).actual = .starting ∧
      (lineRec (after .controlPeriodExpiry auto) 0).actual = .auto ∧ plant.settings.general.syncEnable = false ∧
      sync.settings.general.syncEnable = true ∧ (∃ n, burnerState auto n = .firing) ∧
      ¬ ∃ n, burnerState sync n = .firing := by decide +kernel

theorem witness_FeedbackWindowIsJudged :
    let watched := fed fun x => { x with actual := .auto, rate := 100, window := some 0, faults := 2 }
    let short := onChannel 0 (fun c => { c with emitted := 10 }) watched
    (lineRec plant 0).window = none ∧ (lineRec watched 0).window.isSome ∧
      plant.settings.channelOf (.lineFeedback 0) = some 1 ∧ plant.settings.channelOf (.lineDrive 0) = some 0 ∧
      0 < (lineCfg watched 0).faultLimit ∧ (short.channels.nth 0).emitted = 10 ∧ (short.channels.nth 1).edges = 0 ∧
      (lineCfg short 0).ratio = 1000 ∧ (lineCfg short 0).faultLimit ≤ min 10 ((lineRec short 0).faults + 1) ∧
      (lineCfg (tuned fun c => { c with lines := c.lines.upd 1 fun x => { x with burner := 2 } }) 1).burner ≠
        (lineCfg plant 0).burner ∧ (plant.settings.channels.nth 2).owner = some (.grateDrive 0) := by decide +kernel

/-- An AUTO line that stays AUTO, a MANUAL one that stays MANUAL, a STARTING one that then runs; a weigh point fresh and
not; the fifth period of a shortfall. -/
theorem witness_ControlPeriodIsProcessed_lines :
    let firing := fun (f : LineRec → LineRec) => onBurner 0 (fun b => { b with state := .firing }) (fed f)
    let manual := firing fun x => { x with requested := .manual, actual := .manual, rate := 100 }
    let starting := firing fun x => { x with requested := .auto, actual := .starting, rate := 100 }
    let weighing := fun (p : Fin 96) => { manual with settings := { plantCfg with
      lines := plantCfg.lines.upd 0 fun c => { c with weighPoint := some p } } }
    let short := onDemand 0 (fun d => { d with target := 400000, shortCount := 4 }) (firing id)
    (lineRec (after .controlPeriodExpiry manual) 0).actual = .manual ∧
      (lineRec (after .controlPeriodExpiry starting) 0).actual.runs = true ∧
      freshValue (weighing 0) (lineCfg (weighing 0) 0).weighPoint = some 0 ∧
      freshValue (weighing 9) (lineCfg (weighing 9) 0).weighPoint = none ∧
      (short.fuel.demands.nth 0).shortCount < 5 ∧
      ((after .controlPeriodExpiry short).fuel.demands.nth 0).shortCount = 5 ∧
      manual.settings.channelOf (.lineDrive 0) = some 0 ∧ manual.settings.channelOf (.lineDrive 1) = none := by
  decide +kernel

/-! Hypotheses that can be met: channels, cooler -/

theorem witness_FrequencyIsConverted :
    0 < 1 ∧ (convertFreq (some 6) 30).1.k = 6 ∧ 65535 < 400000000 / (2 ^ (6 + 1) * 30) ∧
      400000000 / (2 ^ (6 + 1) * 2000000) < 2 ∧ (convertFreq none 4984).1.k < 11 ∧
      2 ≤ 400000000 / (2 ^ (0 + 1) * 4984) ∧ 400000000 / (2 ^ (0 + 1) * 4984) ≤ 65535 ∧
      ({ mode := .freq, owner := none, prescaler := none, dutyPeriod := 0 } : ChannelCfg).prescaler = none := by
  decide +kernel

theorem witness_HaltedChannelStarts : ChannelRec.begin.running = false ∧ (0 < ({ k := 0, p := 2, h := 1 } : PulseSetting).h) ∧
    ¬ 0 < ({ k := 0, p := 2, h := 0 } : PulseSetting).h := by decide

/-- A RUNNING channel with the setting (0, p, h), HIGH. -/
def pulsing (p h : Nat) : ChannelRec :=
  { ChannelRec.begin with active := some { k := 0, p := p, h := h }, running := true, high := true }

theorem witness_RunningChannelStages :
    (pulsing 2 0).running = true ∧ (pulsing 2 0).active = some { k := 0, p := 2, h := 0 } ∧ (pulsing 2 0).staged = none := by
  decide

/-- A running channel one count from its event, one within its prescaler, one that advances, and a HALTED one. -/
theorem witness_EmptyQueueTicks_channels :
    let slow := { pulsing 3 0 with active := some { k := 1, p := 3, h := 0 } }
    (pulsing 1 0).active.any (fun x => x.p ≤ (pulsing 1 0).position + 1) ∧
      slow.active.any (fun x => slow.prescale + 1 < 2 ^ x.k) ∧
      (pulsing 2 0).active.any (fun x => (pulsing 2 0).position + 1 < x.p ∧ ¬ (pulsing 2 0).prescale + 1 < 2 ^ x.k) ∧
      (pulsing 2 0).running = true ∧ ChannelRec.begin.running = false ∧ ChannelRec.begin.active = none := by decide

theorem witness_ChannelEventsAct :
    let duty := tuned fun c => { c with channels := c.channels.upd 4 fun x => { x with mode := .duty } }
    let on := fun (c : Fin 24) (x : ChannelRec) (s : State) => onChannel c (fun _ => x) s
    (plant.channels.nth 0).running = false ∧
      (let x := (on 0 (pulsing 2 0) plant).channels.nth 0
       x.running = true ∧ x.active = some { k := 0, p := 2, h := 0 } ∧ x.high = true) ∧
      (plant.settings.channels.nth 0).mode = .freq ∧
      (let x := (on 4 (pulsing 2 1) duty).channels.nth 4
       x.running = true ∧ x.active = some { k := 0, p := 2, h := 1 } ∧ x.high = true) ∧
      (duty.settings.channels.nth 4).mode = .duty ∧ (pulsing 2 2).active = some { k := 0, p := 2, h := 2 } ∧
      (plant.settings.channels.nth 1).mode = .count ∧ (plant.settings.channels.nth 1).mode ≠ .freq ∧
      (plant.settings.channels.nth 0).mode ≠ .duty ∧ (plant.settings.channels.nth 0).mode ≠ .count ∧
      (plant.settings.channels.nth 23).mode = .off := by decide +kernel

theorem witness_CoolerRequestsAct :
    let up := onGrate 1 (fun g => { g with state := .stalled }) (cooled fun c => { c with state := .running })
    plant.cooler.state = .standby ∧ assigned base (.grateDrive 0) = false ∧ assigned plant (.grateDrive 0) = true ∧
      (up.cooler.grates.nth 1).state = .stalled ∧ (up.cooler.grates.nth 0).state ≠ .stalled ∧
      up.cooler.state = .running ∧ up.cooler.state ≠ .standby := by decide +kernel

theorem witness_CoolerRequestsAct_fans :
    (List.replicate 6 1001#16).length = 6 ∧ (List.replicate 5 1000#16).length ≠ 6 := by decide

/-- `plant` with the cooler RUNNING and grate `n` RUNNING in a valid window at 300 strokes an hour. -/
def running (n : Fin 3) (stalls : Nat) : State :=
  onGrate n (fun g => { g with state := .running, windowValid := true, windowSpeed := 300, stalls := stalls })
    (cooled fun c => { c with state := .running })

theorem witness_CoolerPeriodIsProcessed_stalls :
    (plant.settings.channelOf (.grateFeedback 0) = some 3 ∧ plant.settings.channelOf (.grateDrive 0) = some 2) ∧
      (300 * (running 0 2).cooler.periodLength / 600 = 1 ∧ ((running 0 2).channels.nth 3).edges = 0) ∧
      (running 0 2).settings.cooler.stallPeriods = 3 ∧ assigned (running 0 2) (.grateFeedback 0) = true ∧
      ((running 0 2).cooler.grates.nth 0).windowValid = true ∧ ((running 0 2).cooler.grates.nth 0).stalls = 2 ∧
      ((running 0 1).cooler.grates.nth 0).stalls = 1 := by decide +kernel

theorem witness_CoolerPeriodIsProcessed_other_grate :
    let second := { running 1 2 with settings := { plantCfg with channels := plantCfg.channels.upd 4 fun x =>
      { x with mode := .count, owner := some (.grateFeedback 1) } } }
    assigned second (.grateFeedback 1) = true ∧ (second.cooler.grates.nth 1).stalls = 2 ∧
      (second.cooler.grates.nth 0).state ≠ .running := by decide +kernel

/-- A fan with a channel, its reference changed and not; a RUNNING grate whose drive is to be halted, or driven; a grate that
does not run. -/
theorem witness_cooler_channels :
    let fanned := tuned fun c => { c with channels := c.channels.upd 5 fun x => { x with mode := .duty, owner := some (.fan 0) } }
    fanned.settings.channelOf (.fan 0) = some 5 ∧
      ((after (.setFans 0 [1, 0, 0, 0, 0, 0]) (onCooler (fun c => { c with state := .running }) fanned)).cooler.fans.nth 0).applied ≠
        ((onCooler (fun c => { c with state := .running }) fanned).cooler.fans.nth 0).applied ∧
      ((after (.setFans 0 [1, 0, 0, 0, 0, 0]) fanned).cooler.fans.nth 0).applied = (fanned.cooler.fans.nth 0).applied ∧
      ((running 0 0).cooler.grates.nth 0).state = .running ∧ (running 0 0).cooler.state = .running ∧
      ((after .coolerPeriodExpiry (running 0 0)).cooler.grates.nth 0).state = .running ∧
      ((running 0 0).cooler.grates.nth 1).state ≠ .running ∧
      ((running 0 0).settings.channelOf (.grateDrive 0) = some 2 ∧ (running 0 0).settings.channelOf (.grateDrive 1) = none) ∧
      (cooled fun c => { c with state := .pileUp }).cooler.state = .pileUp := by decide +kernel

theorem witness_CoolerPeriodIsProcessed_pressure :
    let pile := onPoint 1 (fun x => { x with underlying := 6501 }) (cooled fun c => { c with state := .running, pileCount := 2 })
    plant.cooler.state = .standby ∧ pile.cooler.state = .running ∧ freshValue pile none = none ∧
      freshValue pile pile.settings.cooler.pressurePoint = some 6501 ∧ pile.settings.cooler.ppile = 6500 ∧
      pile.settings.cooler.pilePeriods = 3 ∧ (running 0 0).settings.cooler.pressurePoint = some 1 := by decide +kernel

/-! Hypotheses that can be met: alarms, notices, shift, store -/

theorem witness_AlarmTransitions :
    let st := fun (x : AlarmState) => ((alarmed 0 x).rep.alarms.recs.nth 0).state
    (st .ackActive).active = true ∧ (st .unackCleared).active = false ∧ st .unackActive = .unackActive ∧
      st .ackActive = .ackActive ∧ (0 : Fin 512) ≠ 97 ∧ (0 : Fin 512) ≠ 100 ∧
      (plant.settings.alarms.nth 0).group = some 0 ∧ (plant.rep.alarms.groups.nth 0).armed = true ∧
      heldBack (env plant) 128 { plant.rep.alarms with mode := .off } = true ∧
      (plant.rep.alarms.recs.nth 128).state.active = false ∧ plant.rep.shift.openRec.raises.nth 3 < 4294967295 ∧
      plant.rep.alarms.buckets = 0 :: List.replicate 9 0 ∧ plant.rep.alarms.flood = false ∧
      plant.settings.floodThreshold < min 65535 (plant.settings.floodThreshold + 1) + (List.replicate 9 0).sum := by
  decide +kernel

/-- `plant` with alarm 0 in a state, a notice of it held. -/
def heldAt (st : AlarmState) : State :=
  onRep (fun _ r => { r with alarms := { r.alarms with recs := r.alarms.recs.upd 0 fun x => { x with held := true } } })
    (alarmed 0 st)

theorem witness_AlarmTransitions_release :
    let queued := after .estopUnhealthy (lit fun b => { b with state := .firing })
    (((heldAt .normal).rep.alarms.recs.nth 0).held = true ∧ ((heldAt .normal).rep.alarms.recs.nth 0).state = .normal ∧
        heldBack (env (heldAt .normal)) 0 (heldAt .normal).rep.alarms = false) ∧
      ((heldAt .ackActive).rep.alarms.recs.nth 0).state ≠ .normal ∧ (heldAt .ackActive).rep.notices.link.nth 0 = none ∧
      (heldAt .ackActive).rep.notices.free.head? = some 0 ∧ (queued.rep.notices.link.nth 6).isSome ∧
      (plant.rep.alarms.recs.nth 0).held = false := by decide +kernel

/-- Room for a notice by a free cell, by the alarm's queued cell, or by a hold. -/
theorem witness_AlarmTransitions_fits :
    let queued := after .estopUnhealthy (lit fun b => { b with state := .firing })
    plant.rep.notices.free ≠ [] ∧ queued.rep.notices.link.nth 6 ≠ none ∧
      (plant.settings.alarms.nth 128).suppress.getLsbD KilnMode.off.code = true ∧
      (plant.settings.alarms.nth 0).suppress.getLsbD plant.rep.alarms.mode.code = false ∧
      (plant.rep.alarms.recs.nth 0).shelved = false ∧ plant.rep.alarms.flood = false := by decide +kernel

/-- `heldAt` with alarm 0 on the shelf. -/
def shelvedAt (st : AlarmState) : State :=
  onRep (fun _ r => { r with alarms := { r.alarms with recs := r.alarms.recs.upd 0 fun x => { x with shelved := true } } })
    (heldAt st)

/-- Queues as a reset leaves them lose nothing over a step that leaves the lost count. -/
theorem nothingLost_of_begin {s t : State} (h : s.rep.notices = .begin) (k : t.rep.notices.lost = 0) : nothingLost s t := by
  refine ⟨?_, ?_, ?_, ?_⟩
  · simp [cellsPartition, h, NoticeQueues.begin]
  · simp [queuedCellsLinked, h, NoticeQueues.begin]
  · simp [h, NoticeQueues.begin]
  · simp [h, NoticeQueues.begin, k]

theorem witness_AlarmRequestsAct_nothingLost :
    nothingLost (shelvedAt .unackActive) (after (.unshelveAlarms 0 0 9) (shelvedAt .unackActive)) :=
  nothingLost_of_begin rfl (by decide +kernel)

/-- UNSHELVE ALARMS releases a held notice and loses none. -/
theorem witness_AlarmRequestsAct_unshelve :
    let u := shelvedAt .unackActive
    u.rep.notices.lost < 65535 ∧ (after (.unshelveAlarms 0 0 9) u).rep.notices.lost = u.rep.notices.lost ∧
      (u.rep.alarms.recs.nth 0).held = true ∧ (u.rep.alarms.recs.nth 0).shelved = true ∧
      (u.rep.alarms.recs.nth 0).state ≠ .normal ∧ (u.rep.alarms.recs.nth 1).shelved = false ∧
      ((shelvedAt .normal).rep.alarms.recs.nth 0).state = .normal ∧
      (u.settings.alarms.nth 0).suppress.getLsbD u.rep.alarms.mode.code = false ∧ u.rep.alarms.flood = false ∧
      u.rep.notices.link.nth 0 = none ∧
      ((after (.unshelveAlarms 0 0 9) u).rep.notices.cells.nth 0).map (·.body) = some (.alarm 0 .unackActive) := by
  decide +kernel

theorem witness_AlarmRequestsAct :
    plant.link.restartPending = false ∧ ((511#16).toNat < 512 ∧ (511#16).toNat % 2 ^ (0#8).toNat = 0) ∧
      ((0#16).toNat < 512 ∧ (9#8).toNat ≤ 9) ∧ ¬ (512#16).toNat < 512 ∧ ¬ (10#8).toNat ≤ 9 ∧
      (1#16).toNat % 2 ^ (1#8).toNat ≠ 0 ∧ (0#16).toNat = 0 ∧ 480 < (481#16).toNat ∧ (480#16).toNat ≤ 480 ∧
      8 ≤ (8#8).toNat ∧ (7#8).toNat = (7 : Fin 8).val ∧
      ((plant.rep.alarms.recs.upd 5 fun x => { x with shelved := true }).nth 5).shelved = true ∧
      ((alarmed 6 .unackActive).rep.alarms.recs.nth 6).state.unacked = true ∧
      heldBack (env plant) 6 plant.rep.alarms = false := by decide +kernel

theorem witness_AlarmRequestsAct_link (b : Fin 512)
    (h : ((Tab.fill none).put 6 (some 0) : Tab 512 (Option (Fin 256))).nth b = some 0) : b = 6 := by
  rw [Tab.nth_put, Tab.nth_fill] at h
  split at h
  · assumption
  · cases h

theorem witness_AlarmTimersExpire :
    let shelf := fun (m : Nat) => plant.rep.alarms.recs.upd 5 fun x => { x with shelved := true, shelveMinutes := m }
    plant.rep.alarms.flood = false ∧ (0 :: plant.rep.alarms.buckets.take 9).sum ≤ plant.settings.floodThreshold / 2 ∧
      5 ≤ plant.settings.floodThreshold ∧ ({ plant.rep.alarms with flood := true } : AlarmTable).flood = true ∧
      (plant.rep.alarms.recs.nth 5).shelved = false ∧ ((plant.settings.alarms.nth 5).suppress.getLsbD 1 = false) ∧
      ((shelf 1).nth 5).shelveMinutes ≤ 1 ∧
      1 < ((shelf 2).nth 5).shelveMinutes ∧ ((shelf 2).nth 5).shelved = true := by decide +kernel

/-- `heldAt .unackActive` with the Alarm Table changed. -/
def heldWith (f : AlarmTable → AlarmTable) : State := onRep (fun _ r => { r with alarms := f r.alarms }) (heldAt .unackActive)

/-- A shelf that ends and a flood that ends, each with a held notice: it is filed, and nothing is lost. -/
theorem witness_AlarmTimersExpire_release :
    let shelf := heldWith fun x => { x with recs := x.recs.upd 0 fun y => { y with shelved := true, shelveMinutes := 1 } }
    let flood := heldWith fun x => { x with flood := true, buckets := [] }
    let aged := onRep (fun _ r => { r with
      alarms := { r.alarms with buckets := [0], secondTimer := Config.sec 1 }
      shift := { r.shift with openRec := { r.shift.openRec with floodSeconds := 1 } } }) flood
    nothingLost shelf (after .shelveMinuteExpiry shelf) ∧ nothingLost aged (after .floodSecondExpiry flood) ∧
      ((after .shelveMinuteExpiry shelf).rep.notices.cells.nth 0).map (·.body) = some (.alarm 0 .unackActive) ∧
      ((after .floodSecondExpiry flood).rep.notices.cells.nth 0).map (·.body) = some (.alarm 0 .unackActive) ∧
      ((after .floodSecondExpiry flood).rep.alarms.recs.nth 0).held = false ∧
      (after .floodSecondExpiry flood).rep.alarms.flood = false := by
  refine ⟨nothingLost_of_begin rfl ?_, nothingLost_of_begin rfl ?_, ?_⟩ <;> decide +kernel

theorem witness_NoticesAreFetched :
    let q := base.rep.notices
    (0#8).toNat = 0 ∧ 16 < (17#8).toNat ∧ 1 ≤ (1#8).toNat ∧ (16#8).toNat ≤ 16 ∧ (2 ∈ q.urgent.take 1) ∧
      cellAlarm (q.cells.nth 2) = some 98 ∧ cellAlarm (q.cells.nth 2) ≠ some 97 ∧ 3 ∉ q.urgent ++ q.routine ∧
      q.free.head? = some 3 ∧ ({ q with free := [] } : NoticeQueues).routine.head? = some 0 ∧
      noticeAlarm (.mode .off) = none ∧ noticeAlarm (.alarm 98 .unackActive) = some 98 ∧
      q.link.nth 98 = some 2 ∧ plant.rep.notices.routine = [] ∧ q.lost < 65535 ∧
      base.rep.shift.openRec.noticesLost < 4294967295 := by
  decide +kernel

theorem witness_ShiftRequestsAct :
    let sh := (ringFull 0).rep.shift
    let one := (ringFull 1).rep.shift
    plant.rep.shift.closePending = .none ∧ (shifted fun x => { x with closePending := .timer }).rep.shift.closePending ≠ .none ∧
      plant.rep.shift.openRec.seq ≠ 4294967295 ∧ plant.store.inFlight = none ∧
      (((one.ring.nth 7).report.map (·.seq)) = some (8#32).toNat ∧
        ∀ j, j < 7 → ((one.ring.nth j).report.map (·.seq)) ≠ some (8#32).toNat) ∧
      (∀ j, (one.ring.nth j).report ≠ none ∧ (j ≠ 7 → (one.ring.nth j).hold ≠ 0)) ∧
      (∀ i, ((one.ring.nth i).report.map (·.seq)) ≠ some (9#32).toNat) ∧
      ((ringFull 15).rep.shift.ring.nth 0).hold = 15 ∧ (sh.ring.nth 7).hold ≠ 15 ∧ (one.ring.nth 7).hold = 1 := by
  decide +kernel

/-- The slot of a close: an EMPTY one, the oldest FULL one, the one just released; and a ring with none. -/
theorem witness_ShiftRequestsAct_slots :
    let one := (ringFull 1).rep.shift.ring
    takesSlot plant.rep.shift.ring 0 ∧ takesSlot (ringFull 0).rep.shift.ring 0 ∧
      takesSlot (one.put 7 { one.nth 7 with hold := 0 }) 7 ∧ ringHeld one := by
  refine ⟨Or.inl ?_, Or.inr ?_, Or.inr ?_, ?_⟩
  · decide +kernel
  · decide +kernel
  · decide +kernel
  · unfold ringHeld; decide +kernel

theorem witness_ShiftTimerCounts :
    let last := shifted fun x => { x with openRec := { x.openRec with elapsed := 28799 } }
    plant.settings.general.shiftLength = 8 ∧ ¬ 8 * 3600 ≤ min 4294967295 (plant.rep.shift.openRec.elapsed + 1) ∧
      8 * 3600 ≤ min 4294967295 (last.rep.shift.openRec.elapsed + 1) ∧ last.rep.shift.closePending = .none ∧
      last.rep.shift.openRec.seq ≠ 4294967295 ∧
      (shifted fun x => { x with closePending := .request }).rep.shift.closePending ≠ .none ∧
      (shifted fun x => { x with openRec := { x.openRec with seq := 4294967295 } }).rep.shift.openRec.seq = 4294967295 ∧
      (last.rep.shift.ring.nth 0).report = none ∧
      let held := { ringFull 1 with rep := { (ringFull 1).rep with shift := { (ringFull 1).rep.shift with
        openRec := last.rep.shift.openRec } } }
      8 * 3600 ≤ min 4294967295 (held.rep.shift.openRec.elapsed + 1) ∧ held.rep.shift.closePending = .none ∧
        ∀ i, (held.rep.shift.ring.nth i).report ≠ none ∧ (held.rep.shift.ring.nth i).hold ≠ 0 := by decide +kernel

theorem witness_StoreActs :
    let with_ := fun (f : StoreCtl → StoreCtl) => { plant with store := f plant.store }
    let report : StoreOp := .report (ShiftRecord.fresh 1 0) 0
    (plant.link.restartPending = false ∧ plant.store.inFlight = none ∧ plant.store.pendingSettings = none) ∧
      ((with_ fun x => { x with pendingSettings := some .save }).store.pendingSettings ≠ none) ∧
      (let x := with_ fun x => { x with inFlight := some (.lock 1), pendingSettings := some .lock }
       x.store.inFlight = some (.lock 1) ∧ x.store.pendingSettings = some .lock) ∧
      (let x := with_ fun x => { x with inFlight := some report, pendingSettings := some .save }
       x.store.inFlight = some report ∧ x.store.pendingSettings = some .save) ∧
      (StoreOp.lock 0).kind = .lock ∧ (StoreOp.save plantCfg).kind = .save ∧ report.kind ≠ .save ∧ report.kind ≠ .lock ∧
      ((with_ fun x => { x with inFlight := some report }).store.inFlight = some report) ∧
      4 ≤ (4#8).toNat ∧ (3#8).toNat = (3 : Fin 4).val ∧ ((0 : Fin 4) < base.lock ∧ base.points.key.on = false) ∧
      (3 : Fin 4) ≠ plant.lock ∧ ¬ (3 : Fin 4) < plant.lock ∧ (0 : Fin 4) = plant.lock ∧
      ((with_ fun x => { x with inFlight := some report, pendingReport := some (ShiftRecord.fresh 2 0) }).store.pendingReport =
        some (ShiftRecord.fresh 2 0)) := by decide +kernel

/-! Hypotheses that can be met: the invariants, at `plant` with a tick to take -/

theorem witness_invariants :
    (∃ t, step plant = .next t) ∧ outputsFollow plant ∧ forcesAtRest plant ∧ modeAgrees plant ∧ modeAgrees stopping ∧
      stoppedLinesRest plant ∧ cutbackAgrees plant ∧ countsAgree plant ∧ attentionShows plant := by
  refine ⟨⟨_, rfl⟩, ?_, ?_, ?_, ?_, ?_, ?_, ?_, ?_⟩
  · unfold outputsFollow; decide +kernel
  · unfold forcesAtRest; decide +kernel
  · unfold modeAgrees; decide +kernel
  · unfold modeAgrees; decide +kernel
  · unfold stoppedLinesRest; decide +kernel
  · unfold cutbackAgrees; decide +kernel
  · unfold countsAgree; decide +kernel
  · unfold attentionShows; decide +kernel

theorem witness_NoticeCellsArePartitioned : cellsPartition plant ∧ queuedCellsLinked plant := by
  have h : plant.rep.notices = NoticeQueues.begin := rfl
  constructor
  · simp only [cellsPartition, h, NoticeQueues.begin, List.append_nil]
    exact List.Perm.refl _
  · simp [queuedCellsLinked, h, NoticeQueues.begin]

/-- Changes of every kind of state that lose no notice, from a state whose cells and links stand as they should. -/
theorem witness_changesPosted :
    let firing := onBurner 0 (fun b => { b with state := .firing }) plant
    let storing := { plant with store := { plant.store with inFlight := some (.lock 0) } }
    let keeps := fun (c : Instr) (s : State) => s.rep.notices.lost < 65535 ∧ (after c s).rep.notices.lost = s.rep.notices.lost
    (keeps (.burnerStart 0 0) plant ∧ burnerState (after (.burnerStart 0 0) plant) 0 ≠ burnerState plant 0) ∧
      (keeps (.lineAuto 0 0) firing ∧ (lineRec (after (.lineAuto 0 0) firing) 0).actual ≠ (lineRec firing 0).actual) ∧
      (keeps (.coolerStart 0) plant ∧ (after (.coolerStart 0) plant).cooler.state ≠ plant.cooler.state) ∧
      (keeps (.setMode 0 4) plant ∧ (after (.setMode 0 4) plant).kiln.mode ≠ plant.kiln.mode) ∧
      keeps (.closeShift 0) plant ∧ keeps (.storeComplete true) storing := by decide +kernel

theorem witness_StoppedLinesStayAtRest : settingsLawful plant ∧ linesLawful plant := by
  have image : plant.nv.image = none := rfl
  have flight : plant.store.inFlight = none := rfl
  refine ⟨⟨⟨?_, ?_, ?_⟩, ?_, ?_⟩, ?_, ?_, ?_, ?_, ?_⟩
  · decide +kernel
  · decide +kernel
  · have h : ∀ c, (plant.settings.channels.nth c).owner.bind plant.settings.channelOf =
        (plant.settings.channels.nth c).owner.map fun _ => c := by decide +kernel
    intro c d r hc hd
    have x := h c
    have y := h d
    rw [hc] at x
    rw [hd] at y
    exact Option.some.inj (x.symm.trans y)
  · simp [image]
  · simp [flight]
  · unfold stoppedLinesRest; decide +kernel
  · unfold stoppedDrivesRest; decide +kernel
  · unfold runningRatesLawful; decide +kernel
  · unfold ignitionLawful; decide +kernel
  · unfold linesSettled; decide +kernel

/-! The manual's worked figures -/

/-- The conversions of section 4.9. -/
theorem test_conversions :
    convertFreq none 4984 = ({ k := 0, p := 40128, h := 0 }, .none) ∧
      convertFreq none 5144 = ({ k := 0, p := 38880, h := 0 }, .none) ∧
      convertFreq none 1500 = ({ k := 2, p := 33333, h := 0 }, .none) ∧
      convertFreq (some 6) 30 = ({ k := 6, p := 65535, h := 0 }, .lowLimit) ∧
      convertFreq none 30 = ({ k := 7, p := 52083, h := 0 }, .none) ∧
      convertFreq (some 6) 2000000 = ({ k := 6, p := 2, h := 0 }, .highLimit) := by decide +kernel

/-- The CRC of R168 on the nine digits gives the check value of its polynomial and initial value, 29B1h. -/
theorem test_crc : crc [0x31#8, 0x32, 0x33, 0x34, 0x35, 0x36, 0x37, 0x38, 0x39] = 0x29B1#16 := by decide +kernel

/-- The lines of the worked case of section 3.15 (Tables 3-8 and 3-9). -/
def coal : Alloc := { line := 0, alt := false, share := 600, hmin := 14444, hmax := 115555, a := 0 }
def petcoke : Alloc := { line := 1, alt := false, share := 250, hmin := 8888, hmax := 53333, a := 0 }
def tyres : Alloc := { line := 2, alt := true, share := 150, hmin := 3888, hmax := 23333, a := 0 }

/-- The splits of Tables 3-10, 3-12, 3-14 and 3-15. -/
theorem test_splits :
    (heatSplit 150000 200 [coal, petcoke, tyres]).map (·.a) = [90000, 37500, 22500] ∧
      (heatSplit 150000 200 [coal, tyres]).map (·.a) = [115555, 23333] ∧
      shortfallOf 150000 (heatSplit 150000 200 [coal, tyres]) = 11112 ∧
      (heatSplit 141112 200 [coal, tyres]).map (·.a) = [115555, 23333] ∧
      shortfallOf 141112 (heatSplit 141112 200 [coal, tyres]) = 2224 ∧
      (heatSplit 112000 200 [coal, petcoke]).map (·.a) = [84000, 28000] := by decide +kernel

/-- The post-purge expiry of the last pending burner, and its lockout by E-STOP, end SHUTDOWN in OFF (R117). -/
theorem test_shutdown_completes :
    let ended := fun (t : State) => t.kiln = { mode := .off, pendingShutdown := Tab.fill false } ∧ t.rep.alarms.mode = .off
    ended (after (.postPurgeExpiry 0) stopping) ∧ ended (after .estopUnhealthy stopping) := by decide +kernel

/-- The kiln of section 3.15 after L1's trip: burner 0 FIRING in PRODUCTION, L0 at 12,461 kg/h and L2 at 2,892 kg/h. -/
def kilnCase : State :=
  let cfg := { plantCfg with
    lines := ((plantCfg.lines.put 0 { LineCfg.default with
        configured := true, cv := 26000, share := 600, rmin := 2000, rmax := 16000, ramp := 400, kf := 400 }).put 1
      { LineCfg.default with
        configured := true, kind := .petcoke, cv := 32000, share := 250, rmin := 1000, rmax := 6000, ramp := 200,
        rank := 1, kf := 1500, ratio := 2000, tolerance := 300 }).put 2
      { LineCfg.default with
        configured := true, kind := .altSolid, cv := 28000, share := 150, rmin := 500, rmax := 3000, ramp := 100,
        rank := 2, kf := 1000 }
    demand := plantCfg.demand.upd 0 fun d => { d with substCap := 200, inletPoint := some 4, inletMin := 0 }
    trim := { plantCfg.trim with airPoint := some 3, tref := 1000, ktrim := 200, trimMax := 20000 }
    channels := plantCfg.channels.upd 5 fun x => { x with mode := .freq, owner := some (.lineDrive 2) } }
  let s := onBurner 0 (fun b => { b with state := .firing })
    { plant with settings := cfg, kiln := { plant.kiln with mode := .production },
                 cooler := { plant.cooler with state := .running }, link := { plant.link with state := .normal } }
  let s := onPoint 3 (fun x => { goodPoint x with underlying := 1050 }) (onPoint 4 goodPoint s)
  let s := onDemand 0 (fun d => { d with target := 160000 }) s
  let s := onLine 0 (fun x => { x with requested := .auto, actual := .auto, rate := 12461 }) s
  let s := onLine 1 (fun x => { x with requested := .auto, actual := .tripped }) s
  let s := onLine 2 (fun x => { x with requested := .auto, actual := .auto, rate := 2892 }) s
  onChannel 0 (fun _ => pulsing 40128 0) s

/-- The first period after the trip (Tables 3-12 and 3-13, section 3.15 Step 1 for the mass of L0). -/
theorem test_period_after_trip :
    let t := after .controlPeriodExpiry kilnCase
    (t.fuel.demands.nth 0).trim = 10000 ∧ (t.fuel.demands.nth 0).effective = 150000 ∧
      (t.fuel.demands.nth 0).shortfall = 11112 ∧ (t.fuel.demands.nth 0).shortCount = 1 ∧
      ((lineRec t 0).target, (lineRec t 0).rate, (lineRec t 0).massRem) = (15999, 12861, 1250) ∧
      ((lineRec t 2).target, (lineRec t 2).rate) = (2999, 2992) ∧
      (t.channels.nth 0).staged = some { k := 0, p := 38880, h := 0 } ∧
      (t.channels.nth 0).active = some { k := 0, p := 40128, h := 0 } := by decide +kernel

/-- The fourth feedback window of Table 3-11 trips L1 with alarm 52. -/
theorem test_feed_fault :
    let s := onLine 1 (fun x => { x with actual := .auto, rate := 4218, faults := 2, window := some 0 }) kilnCase
    let own := fun (mode : ChannelMode) (r : Role) (x : ChannelCfg) => { x with mode := mode, owner := some r }
    let chs := (s.settings.channels.upd 7 (own .freq (.lineDrive 1))).upd 8 (own .count (.lineFeedback 1))
    let s := onChannel 7 (fun x => { x with emitted := 126 }) (onChannel 8 (fun x => { x with edges := 12 })
      { s with settings := { s.settings with channels := chs } })
    let t := after (.feedbackWindowExpiry 1) s
    ((lineRec t 1).actual, (lineRec t 1).rate, (lineRec t 1).lastF, (lineRec t 1).lastExpected) = (.tripped, 0, 12, 252) ∧
      alarmActive t 52 = true ∧ (t.rep.shift.openRec.lines.nth 1).trips = 1 ∧ (lineRec t 2).actual = .auto := by
  decide +kernel

/-- Expiry 4 of Table 5-7: PILE-UP, grate speeds 250, 225 and 175, alarm 80, fans 0 and 1 at 1,000, cutback ON. -/
theorem test_pile_up :
    let cfg := { plantCfg with
      cooler := { plantCfg.cooler with period := 6, stepMax := 15, outletPoint := none }
      grates := (plantCfg.grates.put 1 { smin := 30, smax := 250, ratio := 900 }).put 2
        { smin := 20, smax := 200, ratio := 700 } }
    let s := onPoint 1 (fun x => { x with underlying := 7300 }) { plant with settings := cfg }
    let c := { s.cooler with
      state := .running, s0 := 155, pileCount := 2,
      fans := Tab.mapAll (fun r => { hostRef := r, applied := r }) ⟨#[600, 550, 500, 450, 400, 350], rfl⟩ }
    let t := after .coolerPeriodExpiry { s with cooler := c }
    t.cooler.state = .pileUp ∧ t.cooler.cutback = true ∧ t.cooler.pileCount = 0 ∧ alarmActive t 80 = true ∧
      grateList.map (fun n => (t.cooler.grates.nth n).speed) = [250, 225, 175] ∧
      fanList.map (fun n => (t.cooler.fans.nth n).applied) = [1000, 1000, 500, 450, 400, 350] := by decide +kernel

/-! One step of each family -/

theorem test_identify_reply :
    (after (.validFrame (requestFrame [1, 7])) base).link.reply.map
      (fun r => (r.code, r.tag, r.status, r.data.take 2, r.data.drop 3)) =
      some (1, 7, .ok, [0x1C#8, 0x48#8], [0#8]) := by decide +kernel

theorem test_start_purges :
    let t := after (.burnerStart 9 0) plant
    burnerState t 0 = .purge ∧ (t.burners.nth 0).stepLeft = Config.sec 120 ∧
      t.link.reply = some { code := 0x20, tag := 9, status := .ok, data := [] } := by decide +kernel

theorem test_proof_lights_main :
    let t := after (.flameWindowExpiry 0) (lit fun b =>
      { b with state := .pilotTrial, proven := 2, scanA := { b.scanA with counter := 3 },
               scanB := { b.scanB with counter := 400 } })
    burnerState t 0 = .mainTrial ∧ (t.burners.nth 0).pilot = true ∧ (t.burners.nth 0).mainp = true ∧
      (lineRec t 0).actual = .starting ∧ (lineRec t 0).rate = 100 ∧ (t.channels.nth 0).running = true := by
  decide +kernel

/-- R115: the suppression of SHUTDOWN begins after the stops of the entry, so SHORTFALL, cleared by the stop, is not held. -/
theorem test_suppression_begins_last :
    let s := alarmed 10 .unackActive
    let cfg := { s.settings with alarms := s.settings.alarms.upd 10 fun x => { x with suppress := 16 } }
    let t := after (.setMode 9 4) (onBurner 0 (fun b => { b with state := .firing })
      { s with settings := cfg, kiln := { s.kiln with mode := .production } })
    t.kiln.mode = .shutdown ∧ t.rep.alarms.mode = .shutdown ∧ (t.rep.alarms.recs.nth 10).state = .unackCleared ∧
      (t.rep.alarms.recs.nth 10).held = false := by decide +kernel

/-- R167: YES and ON are the first names of their lists, coded 0. -/
theorem test_yes_is_first :
    (after (.readFirstOut 9) plant).link.reply.map (fun r => r.data.take 1) = some [0#8] ∧
      (after (.readCooler 9) (cooled fun c => { c with cutback := true })).link.reply.map
        (fun r => (r.data.drop 8).take 3) = some [1#8, 1, 0] := by decide +kernel

theorem test_estop_locks_out :
    let t := after .estopUnhealthy (lit fun b => { b with state := .firing, mainp := true })
    burnerState t 0 = .lockedOut ∧ (t.burners.nth 0).mainp = false ∧ (t.burners.nth 0).cause = .estop ∧
      alarmActive t 6 = true ∧ alarmActive t 22 = false := by decide +kernel

theorem test_deferred_close :
    let t := after (.closeShift 3) (ringFull 1)
    t.rep.shift.closePending = .request ∧ alarmActive t 102 = true ∧
      t.link.reply = some { code := 0x48, tag := 3, status := .accepted, data := [] } := by decide +kernel

theorem test_release_performs_close :
    let s := ringFull 1
    let t := after (.releaseReport 3 8) { s with rep := { s.rep with shift := { s.rep.shift with
      closePending := .timer, openRec := { s.rep.shift.openRec with seq := 9 } } } }
    ((t.rep.shift.ring.nth 7).report.map fun r => (r.seq, r.cause, r.deferredClose)) = some (9, .timer, true) ∧
      t.rep.shift.openRec.seq = 10 ∧ t.rep.shift.closePending = .none ∧
      t.link.reply = some { code := 0x4A, tag := 3, status := .ok, data := [0, 0, 0, 0, 9] } := by decide +kernel

theorem test_lost_notice_counts :
    let q := { plant.rep.notices with free := [] }
    let u := raise 128 { plant with
      kiln := { plant.kiln with mode := .production }, rep := { plant.rep with notices := q } }
    u.rep.notices.lost = 2 ∧ u.rep.sticky.noticeLost = true ∧ alarmActive u 97 = true ∧ alarmActive u 128 = true := by
  decide +kernel

theorem test_write_locked :
    let t := after (.writeSetting 4 6 0xFFFF 0 60) base
    t.settings = base.settings ∧ t.rep.sticky.protectViolation = true ∧ alarmActive t 101 = true := by
  refine ⟨rfl, ?_, ?_⟩ <;> decide +kernel

theorem test_store_fault :
    let t := after (.storeComplete false) { plant with store := { plant.store with inFlight := some (.lock 2) } }
    t.store.inFlight = none ∧ t.nv.lockRecord = none ∧ t.rep.sticky.storeFault = true ∧ alarmActive t 99 = true := by
  decide +kernel

theorem test_samples_stale :
    let s := onPoint 0 (fun x => { x with age := 1 }) plant
    let t := after .supervisionExpiry s
    (t.points.points.nth 0).quality = .stale ∧ (t.burners.nth 0).air = .staleOnly := by decide +kernel

/-- R38, R56, R108, R115: the cell of each owner's change of state. -/
theorem test_changes_are_posted :
    let firing := onBurner 0 (fun b => { b with state := .firing }) plant
    let cell := fun (c : Instr) (s : State) => ((after c s).rep.notices.cells.nth 0).map fun x => (x.body, x.cls)
    cell (.burnerStart 0 0) plant = some (.burner 0 .purge, .routine) ∧
      cell .estopUnhealthy firing = some (.burner 0 .lockedOut, .urgent) ∧
      cell (.lineAuto 0 0) firing = some (.line 0 .starting, .routine) ∧
      cell (.coolerStart 0) plant = some (.cooler .running, .routine) ∧
      cell (.setMode 0 4) plant = some (.mode .shutdown, .routine) ∧
      cell (.closeShift 0) plant = some (.shift plant.rep.shift.openRec.seq .request, .routine) := by decide +kernel

/-- R55, R95: the frequency of a started line is its rate × Kf / 1000, of a started grate its speed × Kd. -/
theorem test_drives_are_handed :
    let firing := onBurner 0 (fun b => { b with state := .firing }) plant
    let line := after (.lineAuto 0 0) firing
    let grate := after (.coolerStart 0) plant
    (line.channels.nth 0).active =
        some (convertFreq none (max 1 ((lineRec line 0).rate * (lineFactors line 0).kf / 1000))).1 ∧
      (grate.channels.nth 2).active =
        some (convertFreq none ((grate.cooler.grates.nth 0).speed * grate.settings.cooler.kd)).1 := by decide +kernel

/-- R44: a Kf written between two processings forms the frequencies from the next processing on, and not before it. -/
theorem test_kf_waits_for_the_period :
    let s := after (.writeSetting 9 1 3 10 4000) (supporting .auto fun x => { x with requested := .off })
    let started := after (.lineAuto 9 3) (after (.lineOff 9 3) s)
    let next := after .controlPeriodExpiry started
    (lineCfg s 3).kf = 4000 ∧ (lineFactors started 3).kf = 1000 ∧ (lineFactors next 3).kf = 4000 ∧
      (started.channels.nth 5).active = some (convertFreq none 100).1 := by decide +kernel

/-- The bodies of the ROUTINE notices that wait, oldest first. -/
def routineBodies (s : State) : List NoticeBody :=
  s.rep.notices.routine.filterMap fun c => (s.rep.notices.cells.nth c).map (·.body)

/-- R56: one event's lines change and post in ascending number: LINE OFF of support line 3 sends ALT-SOLID line 1 to WAITING
first, and the conversion of line 3 lets line 1 start first. -/
theorem test_lines_post_in_order :
    let off := after (.lineOff 9 3) (supporting .auto fun x => { x with requested := .auto, actual := .auto, rate := 100 })
    let converted := after .controlPeriodExpiry
      (supporting .starting fun x => { x with requested := .auto, actual := .waiting })
    (routineBodies off).filter (fun b => b.kind == 2) = [.line 1 .waiting, .line 3 .off] ∧
      (routineBodies converted).filter (fun b => b.kind == 2) = [.line 1 .starting, .line 3 .auto] := by decide +kernel

/-- R56, R69: the trip of support line 3 posts after the WAITING of ALT-SOLID line 1, in its own class. -/
theorem test_trip_posts_in_order :
    let s := supporting .auto fun x => { x with requested := .auto, actual := .auto, rate := 100 }
    let t := tripLine 3 s
    (lineRec t 1).actual = .waiting ∧ (lineRec t 3).actual = .tripped ∧
      ((List.range 4).filterMap fun i => ((t.rep.notices.cells.nth (Fin.ofNat 256 i)).map (·.body))).filter
        (fun b => b.kind == 2) = [.line 1 .waiting, .line 3 .tripped] := by decide +kernel

theorem test_duty_reference :
    (convertDuty { mode := .duty, owner := none, prescaler := none, dutyPeriod := 40000 } 650) =
      { k := 0, p := 40000, h := 26000 } := by decide +kernel

end Sys2Proof.Tests
end

section
/-! PROOFS. The hand-over of a setting to an output channel, and the end of its cycle (R80 to R83). -/

namespace Sys2Proof.Machine

/-! The start of a cycle, field by field -/

section
variable (mode : ChannelMode) (x : PulseSetting) (ch : ChannelRec)

@[simp] theorem beginCycle_active : (beginCycle mode x ch).active = some x := rfl
@[simp] theorem beginCycle_staged : (beginCycle mode x ch).staged = none := rfl
@[simp] theorem beginCycle_running : (beginCycle mode x ch).running = ch.running := rfl
@[simp] theorem beginCycle_high : (beginCycle mode x ch).high = firstLevel mode x := rfl
@[simp] theorem beginCycle_position : (beginCycle mode x ch).position = 0 := rfl
@[simp] theorem beginCycle_emitted : (beginCycle mode x ch).emitted = ch.emitted := rfl
@[simp] theorem beginCycle_edges : (beginCycle mode x ch).edges = ch.edges := rfl
@[simp] theorem beginCycle_marker : (beginCycle mode x ch).marker = ch.marker := rfl

/-- What was staged has no part in the cycle that starts. -/
theorem beginCycle_of_staged (slot : Option PulseSetting) :
    beginCycle mode x { ch with staged := slot } = beginCycle mode x ch := rfl

@[simp] theorem firstLevel_freq : firstLevel .freq x = true := rfl
@[simp] theorem firstLevel_duty : firstLevel .duty x = decide (0 < x.h) := rfl

end

/-! Hand-over and cycle end by the run flag -/

/-- A HALTED channel begins its first cycle on the setting (R82). -/
theorem handTo_of_halted (mode : ChannelMode) (x : PulseSetting) {ch : ChannelRec} (halted : ch.running = false) :
    handTo mode x ch = beginCycle mode x { ch with running := true } := by
  unfold handTo
  rw [halted]
  rfl

/-- A RUNNING channel has its staged slot alone changed (R83). -/
theorem handTo_of_running (mode : ChannelMode) (x : PulseSetting) {ch : ChannelRec} (running : ch.running = true) :
    handTo mode x ch = { ch with staged := some x } :=
  if_pos running

/-- The second of two settings handed over within a cycle is the one that stays staged (R83). -/
theorem handTo_handTo_of_running (mode : ChannelMode) (x y : PulseSetting) {ch : ChannelRec}
    (running : ch.running = true) : handTo mode y (handTo mode x ch) = { ch with staged := some y } := by
  rw [handTo_of_running mode x running, handTo_of_running]
  exact running

/-- A frequency above 0 is handed over as its conversion, with the conversion's marker (R79). -/
theorem handFreq_of_pos (cfg : ChannelCfg) {f : Nat} (ch : ChannelRec) (pos : 0 < f) :
    handFreq cfg f ch = { handTo cfg.mode (convertFreq cfg.prescaler f).1 ch with
      marker := (convertFreq cfg.prescaler f).2 } :=
  if_neg (Nat.ne_of_gt pos)

/-- The end of a RUNNING cycle counts it and begins the next one, on the staged setting or else the active one (R80). -/
theorem endCycle_of_running (mode : ChannelMode) {ch : ChannelRec} {a : PulseSetting} (running : ch.running = true)
    (active : ch.active = some a) :
    endCycle mode ch = beginCycle mode (ch.staged.getD a) { ch with emitted := satInc max32 ch.emitted } := by
  unfold endCycle
  rw [if_pos running, active]
  cases ch.staged <;> rfl

/-! Cycle ends after a hand-over -/

section
variable (mode : ChannelMode) {a : PulseSetting} {ch : ChannelRec}

/-- The end of a cycle with `x` staged goes on with `x`, whatever was staged before it (R80, R83). -/
theorem endCycle_handTo (x : PulseSetting) (running : ch.running = true) (active : ch.active = some a) :
    endCycle mode (handTo mode x ch) = beginCycle mode x { ch with emitted := satInc max32 ch.emitted } := by
  rw [handTo_of_running mode x running,
    endCycle_of_running mode (ch := { ch with staged := some x }) running active]
  exact beginCycle_of_staged mode x { ch with emitted := satInc max32 ch.emitted } (some x)

/-- The active setting handed over again changes nothing at the cycle end (R83). -/
theorem endCycle_handTo_active (running : ch.running = true) (active : ch.active = some a) (empty : ch.staged = none) :
    endCycle mode (handTo mode a ch) = endCycle mode ch := by
  rw [endCycle_handTo mode a running active, endCycle_of_running mode running active, empty]
  rfl

/-- A setting handed over after a cycle end waits for the following one (R83). -/
theorem handTo_endCycle (x : PulseSetting) (running : ch.running = true) (active : ch.active = some a)
    (empty : ch.staged = none) :
    (handTo mode x (endCycle mode ch)).active = some a ∧ (handTo mode x (endCycle mode ch)).staged = some x ∧
      (endCycle mode (handTo mode x (endCycle mode ch))).active = some x := by
  have next_running : (endCycle mode ch).running = true := by
    rw [endCycle_of_running mode running active, beginCycle_running]
    exact running
  have next_active : (endCycle mode ch).active = some a := by
    rw [endCycle_of_running mode running active, empty]
    rfl
  refine ⟨?_, ?_, ?_⟩
  · rw [handTo_of_running mode x next_running]
    exact next_active
  · rw [handTo_of_running mode x next_running]
  · rw [endCycle_handTo mode x next_running next_active, beginCycle_active]

end

/-- The first cycle of a channel is counted at its end (R82). -/
theorem endCycle_handTo_of_halted (mode : ChannelMode) (x : PulseSetting) {ch : ChannelRec}
    (halted : ch.running = false) :
    (endCycle mode (handTo mode x ch)).emitted = satInc max32 ch.emitted := by
  rw [handTo_of_halted mode x halted, endCycle_of_running mode rfl (beginCycle_active mode x _)]
  rfl

/-! The statements -/

/-- Settles O42: the setting lies in the staged slot until a cycle end, which takes it for the active one. -/
theorem runningChannelStages : Obligations.RunningChannelStages := by
  intro mode x y a ch running active
  have last_active : endCycle mode (handTo mode y (handTo mode x ch)) =
      beginCycle mode y { ch with emitted := satInc max32 ch.emitted } := by
    rw [handTo_handTo_of_running mode x y running, ← handTo_of_running mode y running,
      endCycle_handTo mode y running active]
  refine ⟨handTo_of_running mode x running, handTo_handTo_of_running mode x y running, ?_, ?_,
    endCycle_handTo_active mode running active, handTo_endCycle mode x running active, ?_⟩
  · rw [last_active, beginCycle_active]
  · rw [last_active, beginCycle_staged]
  · intro cfg f _ pos
    rw [handFreq_of_pos cfg ch pos, handTo_of_running _ _ running]

/-- Settles O41: the start of a HALTED channel is the beginning of a cycle, whose end is its first count. -/
theorem haltedChannelStarts : Obligations.HaltedChannelStarts := by
  intro mode x ch halted
  have start := handTo_of_halted mode x halted
  have output : (handTo mode x ch).high = firstLevel mode x := by rw [start, beginCycle_high]
  have freq : mode = .freq → (handTo mode x ch).high = true := by
    rintro rfl
    rw [output, firstLevel_freq]
  have duty : mode = .duty → ((handTo mode x ch).high = true ↔ 0 < x.h) := by
    rintro rfl
    rw [output, firstLevel_duty, decide_eq_true_iff]
  refine ⟨?_, ?_, ?_, ?_, freq, duty, ?_, ?_, ?_, endCycle_handTo_of_halted mode x halted⟩ <;> simp [start]

end Sys2Proof.Machine
end
